-- ==== Sys2Proof/Word.lean ====
section
/-! DEFINITION. The word types of the FDE: bytes of plane memory, 32-bit host registers and command words
(00_scope R11). -/

namespace Sys2Proof

/-- A byte of plane memory (20_memory R80). -/
abbrev Byte := BitVec 8

/-- A 32-bit host register or command word (10_state R30, 30_encoding R111); also a plane-memory byte
address (00_scope R9, ADDR_W = 32). -/
abbrev Word := BitVec 32

/-- One cell of the pattern store: a signed 10-bit integer (10_state R53). -/
abbrev PatCell := BitVec 10

end Sys2Proof
end

