-- ==== Sys2Proof/Syntax.lean ====
section
/-! DEFINITION. The commands of the FDE, one constructor for each row of spec/opcode_table.json (30_encoding R114).
Arguments are unsigned integers (30_encoding R113); `Instr.wellFormed` says their ranges. -/

namespace Sys2Proof

/-- A decoded command of 30_encoding R114. -/
inductive Instr where
  /-- `NOP` (46_engine R314). -/
  | nop
  /-- `CONSTRUCT` (46_engine R312). -/
  | construct
  /-- `PROCESS_PLANE` (46_engine R316). -/
  | processPlane
  /-- `SOFT_RESET` (46_engine R315). -/
  | softReset
  /-- `RNG_STEP` (41_noise R163). -/
  | rngStep
  /-- `RNG_EOL` (41_noise R164). -/
  | rngEol
  /-- `RNG_SEED` (41_noise R165). -/
  | rngSeed
  /-- `QRS_SEED` with the row index Y (43_quasirandom R214). -/
  | qrsSeed (y : Nat)
  /-- `QRS_NEXT` (43_quasirandom R215). -/
  | qrsNext
  /-- `PAT_READ` with the pattern coordinates PX, PY and the rotation ROT (42_pattern R190). -/
  | patRead (px py rot : Nat)
  /-- `GAIN_QUERY` (45_scale R284). -/
  | gainQuery
  /-- `ED_SPLIT` with the Ostromoukhov table index IDX (44_error_diffusion R246). -/
  | edSplit (idx : Nat)
  deriving DecidableEq, Repr

end Sys2Proof
end

