-- ==== Sys2Proof/WellFormed.lean ====
section
/-! DEFINITION. Which commands the encoding can express: every argument in the range of its field
(30_encoding R112, R113). -/

namespace Sys2Proof

/-- Every argument is in the range 30_encoding R113 gives it. -/
def Instr.wellFormed : Instr → Bool
  | .nop => true
  | .construct => true
  | .processPlane => true
  | .softReset => true
  | .rngStep => true
  | .rngEol => true
  | .rngSeed => true
  | .qrsSeed y => decide (y < 65536)
  | .qrsNext => true
  | .patRead px py rot => decide (px < 32) && decide (py < 32) && decide (rot < 4)
  | .gainQuery => true
  | .edSplit idx => decide (idx < 256)

end Sys2Proof
end

