-- ==== Sys2Proof/Decode.lean ====
section
/-! DEFINITION. The total decoder of command words (30_encoding R111 to R116) and the encoder (R112, R122). -/

namespace Sys2Proof

/-- What a 32-bit word stands for (30_encoding R116): a command, or `Illegal(w)`. -/
inductive Decoded where
  | command (i : Instr)
  | illegal (w : Word)
  deriving DecidableEq, Repr

/-- The unsigned field `w[lo + len - 1 : lo]` (00_scope R11, 30_encoding R113). -/
def field (w : Word) (lo len : Nat) : Nat := w.toNat / 2 ^ lo % 2 ^ len

/-- The opcode `OPC = w[7:0]` (30_encoding R111). -/
def opcodeOf (w : Word) : Nat := field w 0 8

/-- The decoder of 30_encoding R116: the opcode picks the row of R114, the arguments are assembled by R113,
and reserved bits are not looked at (R115). -/
def decode (w : Word) : Decoded :=
  match opcodeOf w with
  | 0x00 => .command .nop
  | 0x01 => .command .construct
  | 0x02 => .command .processPlane
  | 0x03 => .command .softReset
  | 0x10 => .command .rngStep
  | 0x11 => .command .rngEol
  | 0x12 => .command .rngSeed
  | 0x20 => .command (.qrsSeed (field w 8 16))
  | 0x21 => .command .qrsNext
  | 0x30 => .command (.patRead (field w 8 5) (field w 16 5) (field w 24 2))
  | 0x40 => .command .gainQuery
  | 0x50 => .command (.edSplit (field w 8 8))
  | _ => .illegal w

/-- The opcode of each command (30_encoding R114). -/
def opcode : Instr → Nat
  | .nop => 0x00
  | .construct => 0x01
  | .processPlane => 0x02
  | .softReset => 0x03
  | .rngStep => 0x10
  | .rngEol => 0x11
  | .rngSeed => 0x12
  | .qrsSeed _ => 0x20
  | .qrsNext => 0x21
  | .patRead _ _ _ => 0x30
  | .gainQuery => 0x40
  | .edSplit _ => 0x50

/-- The argument fields of each command at their places in the word (30_encoding R112). -/
def argumentBits : Instr → Nat
  | .qrsSeed y => y * 2 ^ 8
  | .patRead px py rot => px * 2 ^ 8 + py * 2 ^ 16 + rot * 2 ^ 24
  | .edSplit idx => idx * 2 ^ 8
  | .nop => 0
  | .construct => 0
  | .processPlane => 0
  | .softReset => 0
  | .rngStep => 0
  | .rngEol => 0
  | .rngSeed => 0
  | .qrsNext => 0
  | .gainQuery => 0

/-- The word of a command, every reserved bit 0 (30_encoding R112, R121, R122). -/
def encode (i : Instr) : Word := BitVec.ofNat 32 (argumentBits i + opcode i)

/-- The instruction the decoder reads from a word given as `nbits` bits (bit 0 the least significant), every bit
above them 0. A command is one 32-bit word (30_encoding R111), so a longer one is none. -/
def decodeTableWord (nbits w : Nat) : Option Instr :=
  if w % 2 ^ nbits < 2 ^ 32 then
    match decode (BitVec.ofNat 32 (w % 2 ^ nbits)) with
    | .command i => some i
    | .illegal _ => none
  else none

end Sys2Proof
end

