-- ==== Sys2Proof/Config.lean ====
section
/-! DEFINITION. What an implementation of the FDE fixes: the parameters of 00_scope R9 and R10, the sorts of
configuration and working data the rules name (00_scope R15, R18; 10_state R52, R56), and the free values: opaque
constants with no body, so that nothing in Lean can evaluate them. -/

namespace Sys2Proof

/-! ### Parameters with a value (00_scope R9) -/

/-- `MAX_W`: the largest plane width the error-diffusion accumulator holds (00_scope R9). -/
def Config.maxW : Nat := 8192

/-- `MAX_PAT`: the largest pattern side (00_scope R9). -/
def Config.maxPat : Nat := 32

/-- `MARGIN`: accumulator margin cells on each side of a line (00_scope R9). -/
def Config.margin : Nat := 2

/-- The legal integer sample depths (00_scope R9). -/
def Config.integerDepths : List Nat := [8, 9, 10, 11, 12, 14, 16]

/-- The legal pattern sides (42_pattern R180). -/
def Config.patternSides : List Nat := [1, 2, 4, 8, 16, 32]

/-! ### Sorts -/

/-- A sample format: the triple (BITS, FLOAT, FULL) of 00_scope R15. -/
structure Format where
  bits : Nat
  float : Bool
  full : Bool
  deriving DecidableEq, Repr, Inhabited

/-- The five error-diffusion kernels (00_scope R18, 44_error_diffusion R230). -/
inductive Kernel where
  | floydSteinberg
  | filterLite
  | stucki
  | atkinson
  | ostromoukhov
  deriving DecidableEq, Repr, Inhabited

/-- The dithering modes of 30_encoding R117; MODE 5 to 9 are the five kernels. -/
inductive Mode where
  | fast
  | flat
  | bayer
  | vac
  | qrs
  | diffuse (k : Kernel)
  deriving DecidableEq, Repr, Inhabited

/-- The six routines of 30_encoding R118; ERRDIF carries its kernel (10_state R52). NONE is CFG_VALID = 0. -/
inductive Routine where
  | copy
  | shift
  | floatOut
  | ordered
  | qrs
  | errdif (k : Kernel)
  deriving DecidableEq, Repr, Inhabited

/-- The color families of 10_state R41. -/
inductive Family where
  | gray
  | rgb
  | yuv
  deriving DecidableEq, Repr, Inhabited

/-- The scan direction `dir` of 00_scope R16. -/
inductive Dir where
  | right
  | left
  deriving DecidableEq, Repr, Inhabited

/-- `ACT`, the active configuration (10_state R52). -/
structure ActiveConfig where
  src : Format
  dst : Format
  mode : Mode
  side : Nat
  dyn : Bool
  static : Bool
  corr : Bool
  tpdfOut : Bool
  tpdfNoise : Bool
  family : Family
  count : Nat
  ampo : Nat
  ampn : Nat
  routine : Routine
  deriving DecidableEq, Repr, Inhabited

/-- The job latch `J`: a copy of the job registers (10_state R43 to R45, R56). -/
structure JobLatch where
  srcBase : Word
  srcStride : Word
  dstBase : Word
  dstStride : Word
  width : Nat
  height : Nat
  frame : Word
  plane : Nat
  deriving DecidableEq, Repr, Inhabited

/-- The job working state of 10_state R56: the job latch, gain and offset (Q32), the rotation, the noise
state, the quasirandom counter and the scan position. -/
structure Work where
  j : JobLatch
  g : Int
  o : Int
  rot : Nat
  ns : Word
  qc : Word
  y : Nat
  x : Nat
  dir : Dir
  deriving DecidableEq, Repr, Inhabited

/-- One triple of `OSTRO_TAB` (00_scope R10): each coefficient is in 0..65535. -/
structure OstroEntry where
  c0 : BitVec 16
  c1 : BitVec 16
  c2 : BitVec 16
  deriving DecidableEq, Repr, Inhabited

/-! ### Parameters without a value: tables and CSR_BASE (00_scope R10, 20_memory R80)

Nothing is known of their contents; the tables a model receives are `Config.vacTable` and `Config.ostroTable`,
which are legal by construction (log 13, 14). -/

/-- The raw contents of `VAC_RANK[S]` in row-major order (93_implementation_defined U17; log 13). -/
opaque Config.rawVac (side : Nat) : List Nat

/-- The raw contents of `OSTRO_TAB[i]` (93_implementation_defined U18; log 14). -/
opaque Config.rawOstro (i : Nat) : OstroEntry

/-- The table `VAC_RANK[S]` a model receives, row-major: a permutation of 0..S²−1 (00_scope R10). Raw contents that are
no permutation stand for the identity, so that this ranges over exactly the legal tables (log 13). -/
def Config.vacTable (side : Nat) : List Nat :=
  if (Config.rawVac side).isPerm (List.range (side * side)) then Config.rawVac side
  else List.range (side * side)

/-- `c0 + c1 + c2`, the total a split divides by (44_error_diffusion R240). -/
def OstroEntry.total (e : OstroEntry) : Nat := e.c0.toNat + e.c1.toNat + e.c2.toNat

/-- The entry `OSTRO_TAB[i]` a model receives: 1 ≤ c0+c1+c2 ≤ 65535 (00_scope R10). Raw contents outside that range
stand for (1, 0, 0), so that this ranges over exactly the legal tables (log 14). -/
def Config.ostroTable (i : Nat) : OstroEntry :=
  if 1 ≤ (Config.rawOstro i).total ∧ (Config.rawOstro i).total ≤ 65535 then Config.rawOstro i
  else { c0 := 1, c1 := 0, c2 := 0 }

/-- `CSR_BASE`: where the register window sits in the host's address space. No FDE rule reads it
(20_memory R80, 93_implementation_defined U19; log 23). -/
opaque Config.csrBase : Word

/-! ### Free values (log 9, 10, 11, 18): each takes the counter `State.free`, so that it is fresh at every use -/

/-- An unspecified active configuration (10_state R59, 93_implementation_defined U1). -/
opaque Config.anyAct (n : Nat) : ActiveConfig

/-- An unspecified cell of the pattern store at (k, r, c) (10_state R59). -/
opaque Config.anyPatCell (n k r c : Nat) : PatCell

/-- An unspecified cell of line j, at offset c from the first margin cell (10_state R59). -/
opaque Config.anyLineCell (n j c : Nat) : Word

/-- An unspecified carry, number i (10_state R59). -/
opaque Config.anyCarry (n i : Nat) : Word

/-- Unspecified job working state (10_state R59, 46_engine R319, 93_implementation_defined U1, U4). -/
opaque Config.anyWork (n : Nat) : Work

/-- The byte a HOST read returns at address `a` where the spec promises none: on the destination of a latched job that
the model refuses (20_memory R88, R94, R95; log 18). -/
opaque Config.anyHostByte (n : Nat) (a : Word) : Byte

/-- Whether the k-th destination sample a failed job had computed reached memory (20_memory R89,
93_implementation_defined U3). -/
opaque Config.sampleLands (n k : Nat) : Bool

end Sys2Proof
end

