-- ==== Sys2Proof/Machine/State.lean ====
section
/-! DEFINITION. The state of the FDE as plain data (10_state R30 to R59), with the plane memory its sequencer reaches
(20_memory R80) and what HOST and MEM still have to do; the reasons a step can stop; the state after reset. -/

namespace Sys2Proof.Machine

/-- The read-write host registers that commands read as operands: the staging configuration (10_state R39 to R42), the
job registers (R43 to R45) and the diagnostic inputs (R46, R47, R50). -/
structure InputRegs where
  cfgSrcFmt : Word
  cfgDstFmt : Word
  cfgMode : Word
  cfgPlanes : Word
  cfgAmpo : Word
  cfgAmpn : Word
  jobSrcBase : Word
  jobSrcStride : Word
  jobDstBase : Word
  jobDstStride : Word
  jobWidth : Word
  jobHeight : Word
  jobFrame : Word
  jobPlane : Word
  rngState : Word
  qrsPhase : Word
  edErrIn : Word
  deriving DecidableEq, Repr

/-- The command latch (10_state R57): the accepted word and a copy of the input registers (log 5). -/
structure Latch where
  word : Word
  regs : InputRegs
  deriving DecidableEq, Repr

/-- One line buffer: its cells that are not 0, keyed by column + MARGIN (10_state R55), in rising order. -/
abbrev Line := List (Nat × Word)

/-- The error-diffusion accumulator (10_state R55): three lines and the two carries, signed 32-bit Q16 values. -/
structure Accum where
  line0 : Line
  line1 : Line
  line2 : Line
  car0 : Word
  car1 : Word
  deriving DecidableEq, Repr

/-- The pattern store `PAT[k][r][c]` (10_state R53). -/
abbrev PatStore := List (List (List PatCell))

/-- Plane memory (20_memory R80): the bytes that are not 0x00 (log 7), addresses strictly rising. -/
abbrev Memory := List Host.Cell

/-- What HOST and the reset input do to the FDE, one at a time (20_memory R80 to R82, R94; 30_encoding R121;
70_reset R390). -/
inductive HostOp where
  /-- A write of the `width` low bits of `v` at byte offset `off` of the register window. -/
  | write (off width : Nat) (v : Word)
  /-- A read of `width` bits at byte offset `off` of the register window. -/
  | read (off width : Nat)
  /-- `WAIT`: read STATUS until BUSY reads 0 (30_encoding R121), one read a move, each recorded as HOST's last read
  (log 26). -/
  | wait
  /-- A write of one byte of plane memory. -/
  | memWrite (a : Word) (b : Byte)
  /-- A read of one byte of plane memory. `fresh` says which of the two bytes 20_memory R94 allows a read of a
  running job's destination returns: the job's (true) or the old one. While the latched job is one that the model refuses, true gives a
  free value there (log 18). -/
  | memRead (a : Word) (fresh : Bool)
  /-- The reset input, or power-up (70_reset R390). `done` says how many steps of a running job came before it
  (log 20). -/
  | hardReset (done : Nat)
  deriving DecidableEq, Repr

/-- Who moves while a command is running (log 1). -/
inductive Turn where
  | host
  | seq
  deriving DecidableEq, Repr

/-- The machine. Every field that is not marked as the model's own is named by 10_state.md. -/
structure State where
  /-- The registers commands read (10_state R39 to R47, R50). -/
  inp : InputRegs
  /-- `IRQ_EN` (10_state R37). -/
  irqEn : Word
  /-- `IRQ_STATUS` (10_state R37). -/
  irqStatus : Word
  /-- `ERR_CODE[7:0]` (10_state R33). -/
  errCode : BitVec 8
  /-- `ERR_INFO` (10_state R33). -/
  errInfo : Word
  /-- `RNG_OUT` (10_state R46). -/
  rngOut : Word
  /-- `QRS_OUT` (10_state R47). -/
  qrsOut : Word
  /-- `GAIN_LO` (10_state R48). -/
  gainLo : Word
  /-- `GAIN_HI` (10_state R48). -/
  gainHi : Word
  /-- `OFF_LO` (10_state R48). -/
  offLo : Word
  /-- `OFF_HI` (10_state R48). -/
  offHi : Word
  /-- `PAT_OUT` (10_state R49). -/
  patOut : Word
  /-- `ED_DISCARD` (10_state R50). -/
  edDiscard : Word
  /-- `ED_SLOT0` to `ED_SLOT11` (10_state R50). -/
  edSlots : Vector Word 12
  /-- `CFG_VALID` (10_state R32, R52). -/
  cfgValid : Bool
  /-- `ACT` (10_state R52). -/
  act : ActiveConfig
  /-- `PAT` (10_state R53). -/
  pat : PatStore
  /-- `VAC_RANK[1, 2, 4, 8, 16, 32]`, each row-major (10_state R54). -/
  vacRank : List (List Nat)
  /-- `OSTRO_TAB[0..255]` (10_state R54). -/
  ostroTab : List OstroEntry
  /-- `LINE`, `CAR0`, `CAR1` (10_state R55). -/
  acc : Accum
  /-- The command latch; BUSY is 1 exactly while it is full (10_state R57). -/
  latch : Option Latch
  /-- The job working state and scan position (10_state R36, R56). -/
  work : Work
  /-- Plane memory (20_memory R80, R83). -/
  mem : Memory
  /-- The model's own: what HOST has still to do, first operation first (log 1, 3). -/
  host : List HostOp
  /-- The model's own: who moves next while a command runs (log 1). -/
  turns : List Turn
  /-- The model's own: what HOST's last read returned (log 26). -/
  hostData : Word
  /-- The model's own: plane memory's coming failures. The head says how many accesses succeed before one fails;
  an empty list means that none fails (20_memory R89; log 8). -/
  busFail : List Nat
  /-- The model's own: the regions (base, size) of plane memory that are no ordinary memory (20_memory R88; log 15). -/
  devices : List (Nat × Nat)
  /-- The model's own: how many free values have been taken (log 27). -/
  free : Nat
  deriving DecidableEq, Repr

/-- Why the machine can be stuck. -/
inductive Fault where
  /-- Raised by `step`: the command latch holds a word that is no command. No run reaches such a state, because a word
  enters the latch only when it decodes (46_engine R310), and no rule says what SEQ would do. Safe: the model stops
  where the spec is silent (log 4). -/
  | latchHoldsNoCommand
  deriving DecidableEq, Repr

/-- Why the model declines to go on: the cases the spec tells a model to refuse (93_implementation_defined U7 to
U11), and commands without a meaning yet. -/
inductive Refusal where
  /-- Raised by `exec`: the instruction has no meaning in the model yet. Safe. -/
  | notModelled (mnemonic : String)
  /-- Raised by `PROCESS_PLANE` and by what depends on a running job: source and destination planes share a byte, and
  the job is no in-place COPY (20_memory R95, U8). Safe: the job's output is unspecified (log 16). -/
  | planesOverlap
  /-- Raised by `PROCESS_PLANE` and by what depends on a running job: a plane lies on device registers or on memory
  with read side effects (20_memory R88, U9). Safe: the FDE gives it no meaning (log 15). -/
  | planeOnDevice
  /-- Raised by a HOST write to a byte of a running job's planes (20_memory R94, U7). Safe: the job's output is
  unspecified (log 17). -/
  | hostWritesRunningPlane
  /-- Raised by a register-window access that is not 32 bits wide or not at a multiple-of-4 offset (20_memory R81,
  U10). Safe: the FDE gives it no meaning (log 19). -/
  | badWindowAccess
  /-- Raised by an access outside the 256-byte register window (10_state R51, U11). Safe: it does not reach the FDE
  (log 19). -/
  | outsideWindow
  deriving DecidableEq, Repr

/-! ### Reset (10_state R59) -/

/-- The input registers after reset (10_state R39 to R47, R50). -/
def InputRegs.reset : InputRegs :=
  { cfgSrcFmt := 0, cfgDstFmt := 0, cfgMode := 0, cfgPlanes := 0, cfgAmpo := 0, cfgAmpn := 0, jobSrcBase := 0,
    jobSrcStride := 0, jobDstBase := 0, jobDstStride := 0, jobWidth := 0, jobHeight := 0, jobFrame := 0,
    jobPlane := 0, rngState := 0, qrsPhase := 0, edErrIn := 0 }

/-- DESIGN CHOICE (log 12): the value `State.reset` names for `ACT`, which 10_state R59 leaves unspecified. -/
def blankConfig : ActiveConfig :=
  { src := { bits := 0, float := false, full := false }, dst := { bits := 0, float := false, full := false },
    mode := .fast, side := 0, dyn := false, static := false, corr := false, tpdfOut := false, tpdfNoise := false,
    family := .gray, count := 0, ampo := 0, ampn := 0, routine := .copy }

/-- DESIGN CHOICE (log 12): the value `State.reset` names for the job working state. -/
def blankWork : Work :=
  { j := { srcBase := 0, srcStride := 0, dstBase := 0, dstStride := 0, width := 0, height := 0, frame := 0, plane := 0 },
    g := 0, o := 0, rot := 0, ns := 0, qc := 0, y := 0, x := 0, dir := .right }

/-- An accumulator with every cell and both carries 0 (46_engine R318); also the value `State.reset` names for it
(DESIGN CHOICE, log 12). -/
def Accum.zero : Accum := { line0 := [], line1 := [], line2 := [], car0 := 0, car1 := 0 }

/-- DESIGN CHOICE (log 12): the value `State.reset` names for the pattern store. -/
def blankPat : PatStore := List.replicate 4 (List.replicate 32 (List.replicate 32 0))

/-- The machine right after a hardware reset (10_state R59, 70_reset R390). HOST has nothing to do, plane memory lists
nothing and no access fails (log 3, 7, 8); the tables are the parameters (00_scope R10). -/
def State.reset : State :=
  { inp := InputRegs.reset
    irqEn := 0
    irqStatus := 0
    errCode := 0
    errInfo := 0
    rngOut := 0
    qrsOut := 0
    gainLo := 0
    gainHi := 0
    offLo := 0
    offHi := 0
    patOut := 0
    edDiscard := 0
    edSlots := Vector.replicate 12 0
    cfgValid := false
    act := blankConfig
    pat := blankPat
    vacRank := Config.patternSides.map Config.vacTable
    ostroTab := (List.range 256).map Config.ostroTable
    acc := Accum.zero
    latch := none
    work := blankWork
    mem := []
    host := []
    turns := []
    hostData := 0
    busFail := []
    devices := []
    free := 0 }

end Sys2Proof.Machine
end

