-- ==== Sys2Proof/Machine/Flags.lean ====
section
/-! DEFINITION. The FDE's only status bits: STATUS.BUSY, STATUS.CFG_VALID, IRQ_STATUS.DONE and IRQ_STATUS.ERR
(10_state R32, R37, R58), the STATUS word that shows them, and the interrupt output (60_exceptions R368). There are no
condition codes. -/

namespace Sys2Proof.Machine

/-- `IRQ_STATUS.DONE`, bit 0 (10_state R37). -/
def irqDone : Word := 0x1

/-- `IRQ_STATUS.ERR`, bit 1 (10_state R37). -/
def irqErr : Word := 0x2

/-- The defined bits of `IRQ_EN` and `IRQ_STATUS` (10_state R37). -/
def irqMask : Word := 0x3

/-- `IRQ_STATUS.DONE <- 1` (60_exceptions R363). -/
def setDone (v : Word) : Word := v ||| irqDone

/-- `IRQ_STATUS.ERR <- 1` (60_exceptions R362). -/
def setErr (v : Word) : Word := v ||| irqErr

/-- A host write of `v` to `IRQ_STATUS` clears each bit written as 1 (10_state R37). -/
def clearWritten (old v : Word) : Word := old &&& ~~~v

/-- `STATUS.BUSY` is 1 exactly while the latch holds a command (10_state R57). -/
def State.busy (s : State) : Bool := s.latch.isSome

/-- The code of a routine as `STATUS.ROUTINE` shows it (30_encoding R118). -/
def routineCode : Routine → Nat
  | .copy => 1
  | .shift => 2
  | .floatOut => 3
  | .ordered => 4
  | .qrs => 5
  | .errdif _ => 6

/-- `STATUS.ROUTINE`: the active routine's code, 0 when CFG_VALID = 0 (10_state R32). -/
def State.routineField (s : State) : Nat := if s.cfgValid then routineCode s.act.routine else 0

/-- The `STATUS` word: BUSY in bit 0, CFG_VALID in bit 1, ROUTINE in bits 10:8 (10_state R32). -/
def State.statusWord (s : State) : Word :=
  BitVec.ofNat 32 (s.busy.toNat + 2 * s.cfgValid.toNat + 256 * s.routineField)

/-- The interrupt output: DONE and DONE_IE, or ERR and ERR_IE (60_exceptions R368). -/
def State.irq (s : State) : Bool :=
  (s.irqStatus.getLsbD 0 && s.irqEn.getLsbD 0) || (s.irqStatus.getLsbD 1 && s.irqEn.getLsbD 1)

end Sys2Proof.Machine
end

