-- ==== Sys2Proof/Machine/Ops.lean ====
section
/-! DEFINITION. The operations the command rules share: the arithmetic primitives of 00_scope R12, cell stores in
canonical form, plane memory (20_memory R83 to R89), the completion of a command (46_engine R311) and the raising of an
error with its acknowledgment (60_exceptions R362, R370). -/

namespace Sys2Proof.Machine

/-! ### Arithmetic on exact integers (00_scope R12) -/

/-- `rnd(n, d)`: n/d rounded to nearest, ties toward plus infinity (00_scope R12). -/
def rnd (n : Int) (d : Nat) : Int := (2 * n + (d : Int)) / (2 * (d : Int))

/-- `clamp(v, lo, hi)` (00_scope R12). -/
def clamp (v lo hi : Int) : Int := min (max v lo) hi

/-! ### Stores of cells in canonical form

A store lists (key, value) pairs with strictly rising keys and no value equal to the default `d`, which is what an
unlisted key reads as; so equal stores are equal data. Plane memory and the accumulator lines are such stores. -/

/-- The value at key `k`: `d` where nothing is listed. -/
def cellGet {α : Type} (d : α) (k : Nat) : List (Nat × α) → α
  | [] => d
  | (j, v) :: t => if j = k then v else cellGet d k t

/-- `v` written at key `k`, in canonical form: writing `d` removes the entry. -/
def cellSet {α : Type} [DecidableEq α] (d : α) (k : Nat) (v : α) : List (Nat × α) → List (Nat × α)
  | [] => if v = d then [] else [(k, v)]
  | (j, w) :: t =>
    if k < j then (if v = d then (j, w) :: t else (k, v) :: (j, w) :: t)
    else if k = j then (if v = d then t else (k, v) :: t)
    else (j, w) :: cellSet d k v t

/-- The canonical form from key `lo` on: keys at least `lo`, strictly rising and below `hi`, no value `d`. -/
def cellsWf {α : Type} [DecidableEq α] (d : α) (hi : Nat) : Nat → List (Nat × α) → Bool
  | _, [] => true
  | lo, (k, v) :: t => decide (lo ≤ k) && decide (k < hi) && decide (v ≠ d) && cellsWf d hi (k + 1) t

/-- The store whose keys 0..n−1 hold `f 0 .. f (n−1)`. -/
def cellsOf {α : Type} [DecidableEq α] (d : α) (f : Nat → α) : Nat → List (Nat × α)
  | 0 => []
  | n + 1 => cellSet d n (f n) (cellsOf d f n)

/-! ### Plane memory (20_memory R80 to R86) -/

/-- What a byte of plane memory that nothing has written reads as. DESIGN CHOICE (log 7): the spec gives plane memory
no initial contents. -/
def unwrittenByte : Byte := 0x00

/-- Plane memory is in canonical form and lists no address of 2^32 or more (20_memory R80). -/
def Memory.wf (m : Memory) : Bool := cellsWf unwrittenByte (2 ^ 32) 0 m

/-- The byte at address `a` (20_memory R83). -/
def memByte (m : Memory) (a : Word) : Byte := cellGet unwrittenByte a.toNat m

/-- Plane memory with the byte at address `a` written (20_memory R83). -/
def memSetByte (m : Memory) (a : Word) (b : Byte) : Memory := cellSet unwrittenByte a.toNat b m

/-- `MemRead(a, n)`: n bytes, least significant first, addresses modulo 2^32 (20_memory R83). -/
def memRead (m : Memory) (a : Word) : Nat → Nat
  | 0 => 0
  | n + 1 => (memByte m a).toNat + 256 * memRead m (a + 1) n

/-- `MemWrite(a, n, v)`: the low 8n bits of v, least significant byte first (20_memory R83). -/
def memWrite (m : Memory) (a : Word) : Nat → Nat → Memory
  | 0, _ => m
  | n + 1, v => memWrite (memSetByte m a (BitVec.ofNat 8 v)) (a + 1) n (v / 256)

/-- `addr(b, s, z, x, y) = u32(b + y·s + x·z)` (20_memory R85). -/
def sampleAddr (base stride : Word) (size x y : Nat) : Word :=
  BitVec.ofInt 32 ((base.toNat : Int) + (y : Int) * stride.toInt + (x : Int) * (size : Int))

/-- A plane in plane memory: base, byte stride, container size, width and height (20_memory R85). -/
structure Plane where
  base : Word
  stride : Word
  size : Nat
  width : Nat
  height : Nat
  deriving DecidableEq, Repr

/-- The address of sample (x, y) of a plane (20_memory R85). -/
def Plane.addr (p : Plane) (x y : Nat) : Word := sampleAddr p.base p.stride p.size x y

/-- Whether byte `a` is one of the `n` bytes from `start` on, modulo 2^32. -/
def inSpan (start n a : Nat) : Bool := decide ((a + (2 ^ 32 - start % 2 ^ 32)) % 2 ^ 32 < n)

/-- Whether two non-empty spans of bytes share a byte, modulo 2^32: one of them starts inside the other. -/
def spansMeet (a n b m : Nat) : Bool :=
  decide (0 < n) && decide (0 < m) && (inSpan a n b || inSpan b m a)

/-- Whether byte `a` belongs to a sample of the plane: row y holds the width · size bytes from its first sample on. -/
def Plane.holds (p : Plane) (a : Word) : Bool :=
  (List.range p.height).any fun y => inSpan (p.addr 0 y).toNat (p.width * p.size) a.toNat

/-- Whether two planes share a byte (20_memory R95). -/
def Plane.meets (p q : Plane) : Bool :=
  (List.range p.height).any fun y =>
    (List.range q.height).any fun y' =>
      spansMeet (p.addr 0 y).toNat (p.width * p.size) (q.addr 0 y').toNat (q.width * q.size)

/-- Whether a plane lies, in part, on one of the listed regions (20_memory R88). -/
def Plane.onDevice (p : Plane) (devices : List (Nat × Nat)) : Bool :=
  (List.range p.height).any fun y =>
    devices.any fun d => spansMeet (p.addr 0 y).toNat (p.width * p.size) d.1 d.2

/-- One access of SEQ to plane memory: whether memory answers it, and the failures still to come (20_memory R89,
log 8). -/
def busAccess : List Nat → Bool × List Nat
  | [] => (true, [])
  | 0 :: t => (false, t)
  | (n + 1) :: t => (true, n :: t)

/-! ### Errors (60_exceptions R360 to R367) -/

/-- The errors of 60_exceptions R361. -/
inductive ErrorCode where
  | cfgBadMode
  | cfgBadFormat
  | cfgBadPairing
  | cfgBadPatsize
  | cfgBadAmplitude
  | cfgBadPlanes
  | resource
  | jobBadPlane
  | jobAlign
  | busError
  | cmdIllegal
  | cmdBusy
  | notConstructed
  | wrongRoutine
  deriving DecidableEq, Repr

/-- The code of each error as `ERR_CODE[7:0]` shows it (60_exceptions R361). -/
def errorCode : ErrorCode → BitVec 8
  | .cfgBadMode => 0x01
  | .cfgBadFormat => 0x02
  | .cfgBadPairing => 0x03
  | .cfgBadPatsize => 0x04
  | .cfgBadAmplitude => 0x05
  | .cfgBadPlanes => 0x06
  | .resource => 0x10
  | .jobBadPlane => 0x11
  | .jobAlign => 0x12
  | .busError => 0x13
  | .cmdIllegal => 0x20
  | .cmdBusy => 0x21
  | .notConstructed => 0x22
  | .wrongRoutine => 0x23

/-- `raise E(info)`: the code, the information word and IRQ_STATUS.ERR (60_exceptions R362). No state is saved and no
mode changes, since the FDE has neither program state nor modes (60_exceptions R369). -/
def raiseError (e : ErrorCode) (info : Word) (s : State) : State :=
  { s with errCode := errorCode e, errInfo := info, irqStatus := setErr s.irqStatus }

/-- The host's acknowledgment, all that a return from an error is: a write of `v` to IRQ_STATUS (60_exceptions R370,
10_state R37). ERR_CODE keeps its value. -/
def acknowledge (v : Word) (s : State) : State :=
  { s with irqStatus := clearWritten s.irqStatus v }

/-! ### Completion of a command (46_engine R311) -/

/-- Completion with no error: BUSY <- 0, the latch emptied, IRQ_STATUS.DONE <- 1; ERR_CODE and ERR_INFO unchanged
(46_engine R311, 60_exceptions R363). -/
def succeed (s : State) : State :=
  { s with latch := none, irqStatus := setDone s.irqStatus }

/-- Completion with error E: the error recorded, BUSY <- 0, the latch emptied, DONE not set (46_engine R311,
60_exceptions R362). -/
def failWith (e : ErrorCode) (info : Word) (s : State) : State :=
  { raiseError e info s with latch := none }

end Sys2Proof.Machine
end

