-- ==== Sys2Proof/Machine/Operands.lean ====
section
/-! DEFINITION. Where a command takes its operands from (10_state R35, R57): the latched registers and command word,
and the fields of the configuration and job registers (10_state R39 to R45, 30_encoding R117 to R120). -/

namespace Sys2Proof.Machine

/-- The input registers a command reads: the copies its latch holds (46_engine R310). With an empty latch, the
registers as they stand, which is what acceptance would copy (log 6). -/
def State.operands (s : State) : InputRegs :=
  match s.latch with
  | some l => l.regs
  | none => s.inp

/-- The command word an error reports: the latched one (60_exceptions R361). With an empty latch, the word of the
command with its reserved bits 0 (log 6). -/
def State.commandWord (s : State) (i : Instr) : Word :=
  match s.latch with
  | some l => l.word
  | none => encode i

/-- Bit `i` of a register (00_scope R11). -/
def bitOf (w : Word) (i : Nat) : Bool := w.getLsbD i

/-! ### Sample formats (10_state R39, 30_encoding R119) -/

/-- `decode_fmt`: BITS in 5:0, FLOAT in bit 8, FULL in bit 9 (10_state R39). -/
def formatOf (w : Word) : Format :=
  { bits := field w 0 6, float := bitOf w 8, full := bitOf w 9 }

/-- A legal format: BITS = 32 when FLOAT = 1, one of the integer depths when FLOAT = 0 (30_encoding R119). -/
def formatLegal (f : Format) : Bool :=
  if f.float then decide (f.bits = 32) else Config.integerDepths.contains f.bits

/-- Identical formats: both float, or both integer with equal BITS and equal FULL (00_scope R15). -/
def formatIdentical (f g : Format) : Bool :=
  (f.float && g.float) || (!f.float && !g.float && decide (f.bits = g.bits) && f.full == g.full)

/-- `sz(fmt)`: 4 bytes for float, 1 for 8-bit integers, 2 for wider ones (20_memory R84). -/
def containerSize (f : Format) : Nat :=
  if f.float then 4 else if f.bits ≤ 8 then 1 else 2

/-! ### The mode word (10_state R40, 30_encoding R117, R120) -/

/-- The mode a MODE value encodes; 10 to 15 are reserved (30_encoding R117). -/
def modeOf : Nat → Option Mode
  | 0 => some .fast
  | 1 => some .flat
  | 2 => some .bayer
  | 3 => some .vac
  | 4 => some .qrs
  | 5 => some (.diffuse .floydSteinberg)
  | 6 => some (.diffuse .filterLite)
  | 7 => some (.diffuse .stucki)
  | 8 => some (.diffuse .atkinson)
  | 9 => some (.diffuse .ostromoukhov)
  | _ => none

/-- The color family a FAMILY value encodes; 3 is reserved (10_state R41). -/
def familyOf : Nat → Option Family
  | 0 => some .gray
  | 1 => some .rgb
  | 2 => some .yuv
  | _ => none

/-- An amplitude word as a signed Q8 integer, if it is in 0..65535 (10_state R42). -/
def amplitudeOf (w : Word) : Option Nat :=
  if 0 ≤ w.toInt ∧ w.toInt ≤ 65535 then some w.toInt.toNat else none

/-! ### The job registers (10_state R43 to R45) -/

/-- `plane_index`, bits 1:0 of `JOB_PLANE` (10_state R45). -/
def planeIndexOf (r : InputRegs) : Nat := field r.jobPlane 0 2

/-- The job latch `J` taken from the (latched) job registers (10_state R56, 46_engine R316). -/
def jobOf (r : InputRegs) : JobLatch :=
  { srcBase := r.jobSrcBase
    srcStride := r.jobSrcStride
    dstBase := r.jobDstBase
    dstStride := r.jobDstStride
    width := field r.jobWidth 0 16
    height := field r.jobHeight 0 16
    frame := r.jobFrame
    plane := planeIndexOf r }

/-- The source plane of a job (20_memory R85). -/
def sourcePlane (act : ActiveConfig) (j : JobLatch) : Plane :=
  { base := j.srcBase, stride := j.srcStride, size := containerSize act.src, width := j.width, height := j.height }

/-- The destination plane of a job (20_memory R85). -/
def destPlane (act : ActiveConfig) (j : JobLatch) : Plane :=
  { base := j.dstBase, stride := j.dstStride, size := containerSize act.dst, width := j.width, height := j.height }

end Sys2Proof.Machine
end

