-- ==== Sys2Proof/Machine/Noise.lean ====
section
/-! DEFINITION. The noise generator (41_noise): the two LCG steps, the seed and the draw, and the commands RNG_STEP,
RNG_EOL and RNG_SEED. Each numeric literal of the source stands in one named constant (93_implementation_defined U20). -/

namespace Sys2Proof.Machine

/-- Multiplier of the per-pixel step (41_noise R161). -/
def ngStepMul : Word := 1664525

/-- Increment of the per-pixel step (41_noise R161). -/
def ngStepInc : Word := 1013904223

/-- Multiplier of the per-scanline step (41_noise R162). -/
def ngEolMul : Word := 1103515245

/-- Increment of the per-scanline step (41_noise R162). -/
def ngEolInc : Word := 12345

/-- The bit of the first-step result that asks for the extra step (41_noise R162). -/
def ngEolBit : Nat := 25

/-- Multiplier of the extra step (41_noise R162). -/
def ngExtraMul : Word := 134775813

/-- Increment of the extra step (41_noise R162). -/
def ngExtraInc : Word := 1

/-- The seed base of static noise (41_noise R166). -/
def ngStaticSeed : Word := 0x4B2E8F31

/-- round(2^16 · √2/2), the TPDF amplitude factor in Q16 (41_noise R168). -/
def ngTpdfFactor : Nat := 46341

/-- `step(s)` (41_noise R161). -/
def ngStep (s : Word) : Word := s * ngStepMul + ngStepInc

/-- `eol(s)`: the test reads the state after the first step (41_noise R162). -/
def ngEol (s : Word) : Word :=
  let s1 := s * ngEolMul + ngEolInc
  if bitOf s1 ngEolBit then s1 * ngExtraMul + ngExtraInc else s1

/-- `seed(frame, plane, STATIC, CORR)` (41_noise R166). -/
def ngSeed (frame : Word) (plane : Nat) (static corr : Bool) : Word :=
  (if static then ngStaticSeed else frame) ^^^ (if corr then 0 else BitVec.ofNat 32 (plane * 2 ^ 16))

/-- `sext_8(s[31:24])` (41_noise R163, R167). -/
def topByte (s : Word) : Int := (BitVec.ofNat 8 (field s 24 8)).toInt

/-- `draw(s, TPDF_NOISE)`: the new state and the noise value (41_noise R167). -/
def ngDraw (s : Word) (tpdfNoise : Bool) : Word × Int :=
  if tpdfNoise then (ngStep (ngStep s), topByte (ngStep s) + topByte (ngStep (ngStep s)))
  else (ngStep s, topByte (ngStep s))

/-- `ampn_eff` (41_noise R168). -/
def ampnEff (act : ActiveConfig) : Int :=
  if act.tpdfNoise then rnd ((act.ampn : Int) * ngTpdfFactor) 65536 else act.ampn

/-- What a command that needs an active configuration does: NOT_CONSTRUCTED with the command word when CFG_VALID = 0
(60_exceptions R365), and else completion in the state `t`. -/
def whenConstructed (i : Instr) (s t : State) : Host.Outcome State Fault Refusal :=
  if s.cfgValid then .next (succeed t) else .next (failWith .notConstructed (s.commandWord i) s)

/-- `RNG_STEP` (41_noise R163): one step whatever ACT holds, never a TPDF draw. -/
def execRngStep (s : State) : Host.Outcome State Fault Refusal :=
  let s1 := ngStep s.operands.rngState
  .next (succeed { s with
    inp := { s.inp with rngState := s1 }
    rngOut := BitVec.ofInt 32 (topByte s1) })

/-- `RNG_EOL` (41_noise R164): RNG_OUT is unchanged. -/
def execRngEol (s : State) : Host.Outcome State Fault Refusal :=
  .next (succeed { s with inp := { s.inp with rngState := ngEol s.operands.rngState } })

/-- `RNG_SEED` (41_noise R165). -/
def execRngSeed (s : State) : Host.Outcome State Fault Refusal :=
  whenConstructed .rngSeed s { s with inp := { s.inp with
    rngState := ngSeed s.operands.jobFrame (planeIndexOf s.operands) s.act.static s.act.corr } }

end Sys2Proof.Machine
end

