-- ==== Sys2Proof/Machine/Pattern.lean ====
section
/-! DEFINITION. The pattern builder and the pattern store (42_pattern): the base patterns, the TPDF remap, the four
rotations, toroidal reading, and the command PAT_READ. -/

namespace Sys2Proof.Machine

/-! ### Base patterns (42_pattern R181 to R185) -/

/-- The quadrant values Q = [0, 128, 192, 64] of the Bayer recursion, by quadrant 2·(y&1) + (x&1) (42_pattern R182). -/
def bayerQuadrant : Nat → Int
  | 0 => 0
  | 1 => 128
  | 2 => 192
  | _ => 64

/-- Cell (y, x) of the 2^n × 2^n Bayer pattern: the root is −128, and each level is the source's recursive doubling
(42_pattern R182). -/
def bayerCell : Nat → Nat → Nat → Int
  | 0, _, _ => -128
  | n + 1, y, x =>
    (bayerCell n (y / 2) (x / 2) + 128) / 4 + bayerQuadrant (y % 2 * 2 + x % 2) - 128

/-- The table `VAC_RANK[S]` for a legal side S (10_state R54). -/
def vacTableOf (ranks : List (List Nat)) (side : Nat) : List Nat := ranks.getD (Nat.log2 side) []

/-- Cell (y, x) of the void-and-cluster pattern: `rank · 256 / S² − 128` (42_pattern R184). -/
def vacCell (ranks : List (List Nat)) (side y x : Nat) : Int :=
  (((vacTableOf ranks side).getD (y * side + x) 0 * 256 / (side * side) : Nat) : Int) - 128

/-- Cell (y, x) of the base pattern B for a mode and side: flat in every mode but BAYER and VAC (42_pattern R181,
R185). -/
def baseCell (ranks : List (List Nat)) (mode : Mode) (side y x : Nat) : Int :=
  match mode with
  | .bayer => bayerCell (Nat.log2 side) y x
  | .vac => vacCell ranks side y x
  | .fast => 0
  | .flat => 0
  | .qrs => 0
  | .diffuse _ => 0

/-! ### TPDF remap and rotations (42_pattern R186, R187) -/

/-- `TPDF_C1` and `TPDF_C2`, Q8 (00_scope R9, 42_pattern R186). -/
def tpdfC : Int := 128

/-- `tpdf(d) = d + tdiv(d·(C1·d²·2^210 + C2·d^32), 2^232)` (42_pattern R186). -/
def tpdfRemap (d : Int) : Int :=
  d + Int.tdiv (d * (tpdfC * d ^ 2 * 2 ^ 210 + tpdfC * d ^ 32)) (2 ^ 232)

/-- The cell of M that `rot_k(M)[y][x]` is (42_pattern R187). -/
def rotatedCoord (k side y x : Nat) : Nat × Nat :=
  match k with
  | 0 => (y, x)
  | 1 => (side - 1 - x, y)
  | 2 => (side - 1 - y, side - 1 - x)
  | _ => (x, side - 1 - y)

/-- Cell (y, x) of rotation k of the pattern a configuration builds (42_pattern R189). -/
def builtCell (ranks : List (List Nat)) (act : ActiveConfig) (k y x : Nat) : Int :=
  let c := rotatedCoord k act.side y x
  let d := baseCell ranks act.mode act.side c.1 c.2
  if act.tpdfOut then tpdfRemap d else d

/-! ### The store (10_state R53) -/

/-- `PAT[k][r][c]` (10_state R53). -/
def patCell (pat : PatStore) (k r c : Nat) : PatCell := ((pat.getD k []).getD r []).getD c 0

/-- The store whose cell (k, r, c) is `f k r c`, of the shape 10_state R53 gives it. -/
def patOf (f : Nat → Nat → Nat → PatCell) : PatStore :=
  (List.range 4).map fun k =>
    (List.range Config.maxPat).map fun r => (List.range Config.maxPat).map fun c => f k r c

/-- `build()`: all four rotations of the S × S pattern; the cells outside it keep what they held (42_pattern R189). -/
def buildPattern (ranks : List (List Nat)) (act : ActiveConfig) (old : PatStore) : PatStore :=
  patOf fun k r c =>
    if r < act.side ∧ c < act.side then BitVec.ofInt 10 (builtCell ranks act k r c) else patCell old k r c

/-- `patval(k, x, y) = PAT[k][y mod S][x mod S]`, the toroidal read (42_pattern R191). -/
def patval (s : State) (k x y : Nat) : Int :=
  (patCell s.pat k (y % s.act.side) (x % s.act.side)).toInt

/-- `PAT_READ` (42_pattern R190): ROT is honoured whatever DYN is. -/
def execPatRead (px py rot : Nat) (s : State) : Host.Outcome State Fault Refusal :=
  whenConstructed (.patRead px py rot) s { s with patOut := BitVec.ofInt 32 (patval s rot px py) }

end Sys2Proof.Machine
end

