-- ==== Sys2Proof/Machine/Control.lean ====
section
/-! DEFINITION. The control commands NOP, CONSTRUCT and SOFT_RESET (46_engine R312 to R315), with the validation of the
staging configuration and the engine reset that SOFT_RESET and the reset input share (10_state R59). -/

namespace Sys2Proof.Machine

/-- `NOP` (46_engine R314): it completes, and DONE is set. -/
def execNop (s : State) : Host.Outcome State Fault Refusal := .next (succeed s)

/-! ### CONSTRUCT (46_engine R312, R313) -/

/-- `select_routine(src, dst, m)`; FAST with formats that no plain shift maps is CFG_BAD_PAIRING (46_engine R313). -/
def selectRoutine (src dst : Format) (m : Mode) : Except ErrorCode Routine :=
  if formatIdentical src dst then .ok .copy
  else
    match m with
    | .fast =>
      if (!src.float && !dst.float && src.full == dst.full) = true then .ok .shift else .error .cfgBadPairing
    | .flat => if dst.float then .ok .floatOut else .ok .ordered
    | .bayer => if dst.float then .ok .floatOut else .ok .ordered
    | .vac => if dst.float then .ok .floatOut else .ok .ordered
    | .qrs => if dst.float then .ok .floatOut else .ok .qrs
    | .diffuse k => if dst.float then .ok .floatOut else .ok (.errdif k)

/-- The amplitude checks (46_engine R312): `ampo` before `ampn`. -/
def checkAmplitudes (r : InputRegs) : Except ErrorCode (Nat × Nat) :=
  match amplitudeOf r.cfgAmpo with
  | none => .error .cfgBadAmplitude
  | some ampo =>
    match amplitudeOf r.cfgAmpn with
    | none => .error .cfgBadAmplitude
    | some ampn => .ok (ampo, ampn)

/-- The check of CFG_PLANES (46_engine R312, 10_state R41). -/
def checkPlanes (r : InputRegs) : Except ErrorCode (Family × Nat) :=
  match familyOf (field r.cfgPlanes 0 2) with
  | none => .error .cfgBadPlanes
  | some family =>
    if 1 ≤ field r.cfgPlanes 4 3 ∧ field r.cfgPlanes 4 3 ≤ 4 then .ok (family, field r.cfgPlanes 4 3)
    else .error .cfgBadPlanes

/-- The checks of CONSTRUCT in their order, and the configuration they accept (46_engine R312). The first check that
fails is the one reported. -/
def checkConfig (r : InputRegs) : Except ErrorCode ActiveConfig :=
  let src := formatOf r.cfgSrcFmt
  let dst := formatOf r.cfgDstFmt
  let side := field r.cfgMode 8 6
  match modeOf (field r.cfgMode 0 4) with
  | none => .error .cfgBadMode
  | some m =>
    if formatLegal src = false then .error .cfgBadFormat
    else if formatLegal dst = false then .error .cfgBadFormat
    else
      match selectRoutine src dst m with
      | .error e => .error e
      | .ok routine =>
        if Config.patternSides.contains side = false then .error .cfgBadPatsize
        else
          match checkAmplitudes r with
          | .error e => .error e
          | .ok amps =>
            match checkPlanes r with
            | .error e => .error e
            | .ok planes =>
              .ok
                { src := src
                  dst := dst
                  mode := m
                  side := side
                  dyn := bitOf r.cfgMode 16
                  static := bitOf r.cfgMode 17
                  corr := bitOf r.cfgMode 18
                  tpdfOut := bitOf r.cfgMode 19
                  tpdfNoise := bitOf r.cfgMode 20
                  family := planes.1
                  count := planes.2
                  ampo := amps.1
                  ampn := amps.2
                  routine := routine }

/-- The commit of an accepted configuration, all at once: ACT, the pattern store, CFG_VALID; STATUS.ROUTINE shows ACT's
routine (46_engine R312, 42_pattern R189). -/
def commitConfig (act : ActiveConfig) (s : State) : State :=
  { s with cfgValid := true, act := act, pat := buildPattern s.vacRank act s.pat }

/-- `CONSTRUCT` (46_engine R312): all or nothing; every error reports ERR_INFO = 0. -/
def execConstruct (s : State) : Host.Outcome State Fault Refusal :=
  match checkConfig s.operands with
  | .error e => .next (failWith e 0 s)
  | .ok act => .next (succeed (commitConfig act s))

/-! ### Reset of the engine (10_state R59) -/

/-- A pattern store of unspecified cells (10_state R59; log 11). -/
def anyPattern (n : Nat) : PatStore := patOf (Config.anyPatCell n)

/-- The number of cells of a line: columns −MARGIN .. MAX_W − 1 + MARGIN (10_state R55). -/
def lineCells : Nat := Config.maxW + 2 * Config.margin

/-- An accumulator of unspecified cells and carries (10_state R59; log 11). -/
def anyAccum (n : Nat) : Accum :=
  { line0 := cellsOf 0 (Config.anyLineCell n 0) lineCells
    line1 := cellsOf 0 (Config.anyLineCell n 1) lineCells
    line2 := cellsOf 0 (Config.anyLineCell n 2) lineCells
    car0 := Config.anyCarry n 0
    car1 := Config.anyCarry n 1 }

/-- Every item of 10_state R59 at its reset value. What the table leaves unspecified takes a free value (log 11). The
tables, plane memory and what is the model's own are untouched (10_state R54, 70_reset R391). -/
def resetEngine (s : State) : State :=
  { s with
    inp := InputRegs.reset
    irqEn := 0
    irqStatus := 0
    errCode := 0
    errInfo := 0
    rngOut := 0
    qrsOut := 0
    gainLo := 0
    gainHi := 0
    offLo := 0
    offHi := 0
    patOut := 0
    edDiscard := 0
    edSlots := Vector.replicate 12 0
    cfgValid := false
    act := Config.anyAct s.free
    pat := anyPattern s.free
    acc := anyAccum s.free
    latch := none
    work := Config.anyWork s.free
    free := s.free + 1 }

/-- `SOFT_RESET` (46_engine R315): no DONE is set. -/
def execSoftReset (s : State) : Host.Outcome State Fault Refusal := .next (resetEngine s)

end Sys2Proof.Machine
end

