-- ==== Sys2Proof/Machine/Diffusion.lean ====
section
/-! DEFINITION. The error-diffusion unit (44_error_diffusion): the slots, the five splits, the accumulator with its
serpentine placement, the row end, and the command ED_SPLIT. -/

namespace Sys2Proof.Machine

/-! ### Slots and splits (44_error_diffusion R232, R237 to R242) -/

/-- The twelve canonical slots (dx, dy), k = 0..11, measured in the scan direction (44_error_diffusion R232). -/
def slotPositions : List (Int × Nat) :=
  [(1, 0), (2, 0), (-2, 1), (-1, 1), (0, 1), (1, 1), (2, 1), (-2, 2), (-1, 2), (0, 2), (1, 2), (2, 2)]

/-- The Stucki weights of slots 1 to 11; slot 0, weight 8, takes the remainder (44_error_diffusion R239). -/
def stuckiWeights : List Int := [4, 2, 4, 8, 4, 2, 1, 2, 4, 2, 1]

/-- The divisor of the Stucki weights (44_error_diffusion R239). -/
def stuckiDivisor : Nat := 42

/-- The Floyd-Steinberg back-diagonal weight, over `fsDivisor` (44_error_diffusion R237). -/
def fsBackWeight : Int := 4

/-- The Floyd-Steinberg down weight, over `fsDivisor` (44_error_diffusion R237). -/
def fsDownWeight : Int := 5

/-- The divisor of the Floyd-Steinberg weights (44_error_diffusion R237). -/
def fsDivisor : Nat := 16

/-- The divisor of FilterLite's weight 1/4 (44_error_diffusion R238). -/
def flDivisor : Nat := 4

/-- The divisor of Atkinson's weight 1/8 (44_error_diffusion R241). -/
def atDivisor : Nat := 8

/-- `split_K(e, i)`: the amount each slot receives, the table entry being read by OS only (44_error_diffusion R237 to
R241). -/
def splitError (k : Kernel) (entry : OstroEntry) (e : Int) : List Int :=
  match k with
  | .floydSteinberg =>
    let b := rnd (fsBackWeight * e) fsDivisor
    let d := rnd (fsDownWeight * e) fsDivisor
    [e - b - d, 0, 0, b, d, 0, 0, 0, 0, 0, 0, 0]
  | .filterLite =>
    let a := rnd e flDivisor
    [e - 2 * a, 0, 0, a, a, 0, 0, 0, 0, 0, 0, 0]
  | .stucki =>
    let l := stuckiWeights.map fun w => rnd (w * e) stuckiDivisor
    (e - l.sum) :: l
  | .atkinson =>
    let a := rnd e atDivisor
    [a, a, 0, a, a, a, 0, 0, 0, a, 0, 0]
  | .ostromoukhov =>
    let b := rnd ((entry.c1.toNat : Int) * e) entry.total
    let d := rnd ((entry.c2.toNat : Int) * e) entry.total
    [e - b - d, 0, 0, b, d, 0, 0, 0, 0, 0, 0, 0]

/-- The discard: the part of the error no slot received (44_error_diffusion §3). -/
def splitDiscard (e : Int) (slots : List Int) : Int := e - slots.sum

/-- `OSTRO_TAB[i]` (10_state R54). A legal table has 256 entries, so the default is never read with i ≤ 255. -/
def ostroEntry (tab : List OstroEntry) (i : Nat) : OstroEntry := tab.getD i { c0 := 1, c1 := 0, c2 := 0 }

/-- The depth L of a kernel (44_error_diffusion R233). -/
def kernelDepth : Kernel → Nat
  | .floydSteinberg => 1
  | .filterLite => 1
  | .stucki => 2
  | .atkinson => 2
  | .ostromoukhov => 1

/-- Whether the row end clears the carries: FL, AT and OS (44_error_diffusion R236). -/
def clearsCarries : Kernel → Bool
  | .floydSteinberg => false
  | .filterLite => true
  | .stucki => false
  | .atkinson => true
  | .ostromoukhov => true

/-! ### The accumulator (10_state R55, 44_error_diffusion R233 to R236) -/

/-- `LINE[j]`, j in 0..2 (10_state R55). -/
def Accum.line (a : Accum) : Nat → Line
  | 0 => a.line0
  | 1 => a.line1
  | _ => a.line2

/-- `LINE[j]` replaced. -/
def Accum.setLine (a : Accum) (j : Nat) (l : Line) : Accum :=
  match j with
  | 0 => { a with line0 := l }
  | 1 => { a with line1 := l }
  | _ => { a with line2 := l }

/-- The key of column c, which runs from −MARGIN up (10_state R55). -/
def columnKey (c : Int) : Nat := (c + (Config.margin : Int)).toNat

/-- `acc(r, c) = LINE[r mod (L+1)][c]` (44_error_diffusion R234). -/
def accCell (depth : Nat) (a : Accum) (r : Nat) (c : Int) : Int :=
  (cellGet (0 : Word) (columnKey c) (a.line (r % (depth + 1)))).toInt

/-- `acc(r, c) <- acc(r, c) + v` (44_error_diffusion R235). -/
def accAdd (depth : Nat) (a : Accum) (r : Nat) (c v : Int) : Accum :=
  a.setLine (r % (depth + 1))
    (cellSet (0 : Word) (columnKey c) (BitVec.ofInt 32 (accCell depth a r c + v)) (a.line (r % (depth + 1))))

/-- `dir` as the factor ±1 (00_scope R16). -/
def dirSign : Dir → Int
  | .right => 1
  | .left => -1

/-- The direction of row y of an ERRDIF job (44_error_diffusion R235). -/
def rowDir (y : Nat) : Dir := if y % 2 = 0 then .right else .left

/-- The amounts of the slots with 1 ≤ dy ≤ L added below pixel (x, y), mirrored by the scan direction
(44_error_diffusion R235, R243). The other slots of a kernel of depth L are 0. -/
def accSpread (depth : Nat) (dir : Dir) (x y : Nat) (slots : List ((Int × Nat) × Int)) (a : Accum) : Accum :=
  slots.foldl
    (fun a p =>
      if 1 ≤ p.1.2 ∧ p.1.2 ≤ depth then
        accAdd depth a (y + p.1.2) ((x : Int) + p.1.1 * dirSign dir) p.2
      else a)
    a

/-- The accumulator and the carries after pixel (x, y) has split its error: CAR0 <- CAR1 + sl[(+1,0)],
CAR1 <- sl[(+2,0)], and the rows below (44_error_diffusion R243). -/
def accDiffuse (depth : Nat) (dir : Dir) (x y : Nat) (sl : List Int) (a : Accum) : Accum :=
  accSpread depth dir x y (slotPositions.zip sl)
    { a with
      car0 := BitVec.ofInt 32 (a.car1.toInt + sl.getD 0 0)
      car1 := BitVec.ofInt 32 (sl.getD 1 0) }

/-- `row_end(y)`: the finished row's line is cleared, margins included, and FL, AT and OS clear the carries
(44_error_diffusion R236). -/
def accRowEnd (k : Kernel) (y : Nat) (a : Accum) : Accum :=
  let b := a.setLine (y % (kernelDepth k + 1)) []
  if clearsCarries k then { b with car0 := 0, car1 := 0 } else b

/-! ### The command -/

/-- The twelve slot registers holding a split (44_error_diffusion R246, 10_state R50). -/
def slotRegs (sl : List Int) : Vector Word 12 := Vector.ofFn fun k : Fin 12 => BitVec.ofInt 32 (sl.getD k.val 0)

/-- `ED_SPLIT` (44_error_diffusion R246): ED_ERR_IN as it stands, with no ampo scaling; IDX matters to OS only; the
accumulator and the carries are untouched. -/
def execEdSplit (idx : Nat) (s : State) : Host.Outcome State Fault Refusal :=
  if s.cfgValid then
    match s.act.routine with
    | .errdif k =>
      let e := s.operands.edErrIn.toInt
      let sl := splitError k (ostroEntry s.ostroTab idx) e
      .next (succeed { s with edSlots := slotRegs sl, edDiscard := BitVec.ofInt 32 (splitDiscard e sl) })
    | _ => .next (failWith .wrongRoutine (s.commandWord (.edSplit idx)) s)
  else .next (failWith .notConstructed (s.commandWord (.edSplit idx)) s)

end Sys2Proof.Machine
end

