-- ==== Sys2Proof/Machine/Quasirandom.lean ====
section
/-! DEFINITION. The quasirandom generator (43_quasirandom): its constants, the phase seed, the output fold, and the
commands QRS_SEED and QRS_NEXT. -/

namespace Sys2Proof.Machine

/-- `A1 = round(2^32 · α)`, the pixel step (43_quasirandom R210). -/
def qgA1 : Word := 0xC13FA9A9

/-- `A2 = round(2^32 · α²)`, the row step (43_quasirandom R210). -/
def qgA2 : Word := 0x91E10DA6

/-- `K1`, the frame multiplier (43_quasirandom R210). -/
def qgK1 : Word := 0x9E3779B9

/-- `K2`, the plane multiplier (43_quasirandom R210). -/
def qgK2 : Word := 0x55555555

/-- `qseed(y, frame, plane, DYN, CORR)` (43_quasirandom R211). -/
def qgSeed (y : Nat) (frame : Word) (plane : Nat) (dyn corr : Bool) : Word :=
  BitVec.ofNat 32 y * qgA2 + (if dyn then frame * qgK1 else 0)
    + (if corr then 0 else BitVec.ofNat 32 plane * qgK2)

/-- `qval(c)`: the triangle fold of bits 31:23 (43_quasirandom R212). -/
def qgValue (c : Word) : Int :=
  let s := field c 23 9
  (if s < 256 then (s : Int) else 511 - (s : Int)) - 128

/-- `QRS_SEED` (43_quasirandom R214): QRS_OUT is unchanged. -/
def execQrsSeed (y : Nat) (s : State) : Host.Outcome State Fault Refusal :=
  whenConstructed (.qrsSeed y) s { s with inp := { s.inp with
    qrsPhase := qgSeed y s.operands.jobFrame (planeIndexOf s.operands) s.act.dyn s.act.corr } }

/-- `QRS_NEXT` (43_quasirandom R215): the output comes from the phase before the advance, never doubled. -/
def execQrsNext (s : State) : Host.Outcome State Fault Refusal :=
  .next (succeed { s with
    qrsOut := BitVec.ofInt 32 (qgValue s.operands.qrsPhase)
    inp := { s.inp with qrsPhase := s.operands.qrsPhase + qgA1 } })

end Sys2Proof.Machine
end

