-- ==== Sys2Proof/Machine/Scale.lean ====
section
/-! DEFINITION. The scaler and quantizer (45_scale): ranges, the Q32 gain and offset, source samples and work values,
the value paths that do not dither, the quantizer, and the command GAIN_QUERY. -/

namespace Sys2Proof.Machine

/-! ### Ranges and the affine map (45_scale R280 to R283) -/

/-- A plane is chroma when the family is YUV and the plane index is 1 or 2 (45_scale R281). -/
def isChroma (family : Family) (plane : Nat) : Bool := family == .yuv && (plane == 1 || plane == 2)

/-- The limited-range black level at 8 bits (45_scale R280). -/
def limitedMin : Int := 16

/-- The limited-range white level of a luma plane at 8 bits (45_scale R280). -/
def limitedLumaMax : Int := 235

/-- The limited-range top level of a chroma plane at 8 bits (45_scale R280). -/
def limitedChromaMax : Int := 240

/-- Twice the [min, max] range of a format (45_scale R280), so that float chroma's ±0.5 is an integer. Limited range
is 16·k to 235·k, or 240·k for chroma, with k = 2^(b−8). -/
def doubleRange (f : Format) (chroma : Bool) : Int × Int :=
  if f.float then (if chroma then (-1, 1) else (0, 2))
  else if f.full then (0, 2 * (2 ^ f.bits - 1))
  else
    (2 * limitedMin * 2 ^ (f.bits - 8),
      2 * (if chroma then limitedChromaMax else limitedLumaMax) * 2 ^ (f.bits - 8))

/-- `dmax − dmin` or `smax − smin`, doubled. -/
def doubleWidth (f : Format) (chroma : Bool) : Int := (doubleRange f chroma).2 - (doubleRange f chroma).1

/-- `G = floor(gain · 2^32 + 1/2)` with gain = (dmax − dmin)/(smax − smin) (45_scale R282, R283). -/
def gainQ32 (src dst : Format) (chroma : Bool) : Int :=
  rnd (doubleWidth dst chroma * 2 ^ 32) (doubleWidth src chroma).toNat

/-- `O = floor(offset · 2^32 + 1/2)` with offset = dmin − smin · gain (45_scale R282, R283), over the common
denominator 2 · (smax − smin). -/
def offsetQ32 (src dst : Format) (chroma : Bool) : Int :=
  rnd (((doubleRange dst chroma).1 * doubleWidth src chroma - (doubleRange src chroma).1 * doubleWidth dst chroma)
      * 2 ^ 32)
    (2 * doubleWidth src chroma).toNat

/-- `{GAIN_HI, GAIN_LO} <- G; {OFF_HI, OFF_LO} <- O`, two's complement, 64 bits (45_scale R284, 10_state R48). -/
def showGain (g o : Int) (s : State) : State :=
  { s with
    gainLo := (BitVec.ofInt 64 g).extractLsb' 0 32
    gainHi := (BitVec.ofInt 64 g).extractLsb' 32 32
    offLo := (BitVec.ofInt 64 o).extractLsb' 0 32
    offHi := (BitVec.ofInt 64 o).extractLsb' 32 32 }

/-- `GAIN_QUERY` (45_scale R284): the range gain whatever the routine is; JOB_PLANE is not checked against the plane
count. -/
def execGainQuery (s : State) : Host.Outcome State Fault Refusal :=
  let chroma := isChroma s.act.family (planeIndexOf s.operands)
  whenConstructed .gainQuery s
    (showGain (gainQ32 s.act.src s.act.dst chroma) (offsetQ32 s.act.src s.act.dst chroma) s)

/-! ### From source sample to work value (45_scale R285 to R287) -/

/-- What a binary32 encoding stands for (45_scale R285): a finite value is `n · 2^−149`, exactly. -/
inductive FloatValue where
  | finite (n : Int)
  | inf (negative : Bool)
  | nan
  deriving DecidableEq, Repr

/-- The value of a binary32 word: sign in bit 31, biased exponent in 30:23, fraction in 22:0. PRESUMED (log 25): the
spec names IEEE 754 binary32 and leaves its layout to general knowledge (93_implementation_defined K1). -/
def floatValueOf (w : Nat) : FloatValue :=
  let frac := w % 2 ^ 23
  let ex := w / 2 ^ 23 % 2 ^ 8
  let neg := decide (w / 2 ^ 31 % 2 = 1)
  if ex = 255 then (if frac = 0 then .inf neg else .nan)
  else
    let m : Nat := if ex = 0 then frac else (2 ^ 23 + frac) * 2 ^ (ex - 1)
    .finite (if neg then -(m : Int) else m)

/-- The value of an integer sample: container bits above BITS are ignored (45_scale R285). -/
def intSample (f : Format) (raw : Nat) : Nat := raw % 2 ^ f.bits

/-- The work-value clamp to −2^47 .. 2^47 − 1 (45_scale R286, R287). -/
def workClamp (v : Int) : Int := clamp v (-2 ^ 47) (2 ^ 47 - 1)

/-- `work(v)` of an integer source value (45_scale R286). -/
def workOfInt (v : Nat) (g o : Int) : Int := workClamp (((v : Int) * g + o) / 2 ^ 16)

/-- `work(x)` of a float source value, x exact: (n·2^−149·G + O)/2^16; ±Inf gives the clamp bounds and a NaN is read
as 0 (45_scale R285, R287). -/
def workOfFloat (v : FloatValue) (g o : Int) : Int :=
  match v with
  | .finite n => workClamp ((n * g + o * 2 ^ 149) / 2 ^ 165)
  | .inf negative => if negative then -2 ^ 47 else 2 ^ 47 - 1
  | .nan => workClamp (o / 2 ^ 16)

/-- The work value of a source container (45_scale R285 to R287). -/
def workOf (src : Format) (raw : Nat) (g o : Int) : Int :=
  if src.float then workOfFloat (floatValueOf raw) g o else workOfInt (intSample src raw) g o

/-- The OS table index of a source sample: the top 8 bits of the masked integer, or `clamp(floor(x · 256), 0, 255)`
of a float, 0 for a NaN (44_error_diffusion R242). -/
def ostroIndex (src : Format) (raw : Nat) : Nat :=
  if src.float then
    match floatValueOf raw with
    | .finite n => (clamp (n * 256 / 2 ^ 149) 0 255).toNat
    | .inf negative => if negative then 0 else 255
    | .nan => 0
  else intSample src raw / 2 ^ (src.bits - 8)

/-! ### The value paths that do not dither (45_scale R288, R289) -/

/-- `shift_val(v)`: a plain shift with no rounding bias (45_scale R288). -/
def shiftValue (bs bd v : Nat) : Nat := if bs ≤ bd then v * 2 ^ (bd - bs) else v / 2 ^ (bs - bd)

/-- A magnitude `a > 0` rounded to 24 significant bits, ties to even: the significand and the exponent field of the
nearest binary32 value of a · 2^−32, the significand's carry going into the exponent (45_scale R289). -/
def roundMagnitude (a : Nat) : Nat :=
  let k := Nat.log2 a
  let m :=
    if k ≤ 23 then a * 2 ^ (23 - k)
    else
      let d := 2 ^ (k - 23)
      let q := a / d
      let r := a % d
      if d < 2 * r ∨ (2 * r = d ∧ q % 2 = 1) then q + 1 else q
  (k + 95) * 2 ^ 23 + (m - 2 ^ 23)

/-- `RNE_f32(n / 2^32)` as a binary32 encoding; 0 is +0 (45_scale R289). The layout is PRESUMED (log 25). -/
def roundToFloat (n : Int) : Nat :=
  if n = 0 then 0
  else (if n < 0 then 2 ^ 31 else 0) + roundMagnitude n.natAbs

/-- `float_val(v) = RNE_f32((v·G + O)/2^32)` (45_scale R289). -/
def floatOutValue (v : Nat) (g o : Int) : Nat := roundToFloat ((v : Int) * g + o)

/-! ### The quantizer (45_scale R291) -/

/-- `quant(T, bd)`: round half up; the error is taken before the clamp (45_scale R291). -/
def quantize (t : Int) (bd : Nat) : Int × Int :=
  let q := (t + 2 ^ 15) / 2 ^ 16
  (clamp q 0 (2 ^ bd - 1), t - q * 2 ^ 16)

end Sys2Proof.Machine
end

