-- ==== Sys2Proof/Machine/Job.lean ====
section
/-! DEFINITION. PROCESS_PLANE (46_engine R316 to R327): the checks, the job's setup, its rows and pixels in the order of
R320 and R321, the six routines, its finish and its bus errors. -/

namespace Sys2Proof.Machine

/-! ### What a job's steps read and write -/

/-- The state a running job changes: plane memory, the failures memory still has to signal, the working state, the
accumulator, and the destination samples computed so far, latest first. -/
structure Run where
  mem : Memory
  busFail : List Nat
  work : Work
  acc : Accum
  writes : List (Word × Nat)
  deriving DecidableEq, Repr

/-- A failed access: the address of the failing sample access and the run it stopped (20_memory R89). -/
structure BusFailure where
  addr : Word
  run : Run
  deriving DecidableEq, Repr

/-- One step of a job: a row's start, a pixel, a row's end (46_engine R320). -/
inductive JobStep where
  | rowStart (y : Nat)
  | pixel (x y : Nat)
  | rowEnd (y : Nat)
  deriving DecidableEq, Repr

/-- Routines that draw noise: ORDERED, QRS and ERRDIF (41_noise R170). -/
def drawsNoise : Routine → Bool
  | .copy => false
  | .shift => false
  | .floatOut => false
  | .ordered => true
  | .qrs => true
  | .errdif _ => true

/-- Routines that use the gain and offset, and show them at the finish (46_engine R319). -/
def usesGain : Routine → Bool
  | .copy => false
  | .shift => false
  | .floatOut => true
  | .ordered => true
  | .qrs => true
  | .errdif _ => true

/-- Whether the routine is ERRDIF, the only one that uses the accumulator (46_engine R316). -/
def usesAccumulator : Routine → Bool
  | .errdif _ => true
  | .copy => false
  | .shift => false
  | .floatOut => false
  | .ordered => false
  | .qrs => false

/-! ### The checks before a job (46_engine R316, 20_memory R86, R88, R95) -/

/-- What PROCESS_PLANE does after its checks. -/
inductive JobPlan where
  /-- An error before any access. -/
  | reject (e : ErrorCode) (info : Word)
  /-- WIDTH or HEIGHT is 0: no access and no register change. -/
  | empty
  /-- The spec tells a model to refuse the job. -/
  | refuse (r : Refusal)
  /-- The job runs. -/
  | run (j : JobLatch)
  deriving DecidableEq, Repr

/-- A base and a stride are multiples of the container size (20_memory R86). -/
def aligned (base stride : Word) (size : Nat) : Bool :=
  decide (base.toNat % size = 0) && decide (stride.toInt % (size : Int) = 0)

/-- The in-place COPY with identical bases and strides, which may overlap (20_memory R95). -/
def inPlaceCopy (act : ActiveConfig) (j : JobLatch) : Bool :=
  act.routine == .copy && j.srcBase == j.dstBase && j.srcStride == j.dstStride

/-- The checks of 46_engine R316 in their order, then the cases a model refuses (20_memory R88, R95; log 30). -/
def planJob (s : State) : JobPlan :=
  let j := jobOf s.operands
  let src := sourcePlane s.act j
  let dst := destPlane s.act j
  if s.cfgValid = false then .reject .notConstructed (s.commandWord .processPlane)
  else if s.act.count ≤ j.plane then .reject .jobBadPlane 0
  else if usesAccumulator s.act.routine = true ∧ Config.maxW < j.width then .reject .resource 0
  else if (aligned src.base src.stride src.size && aligned dst.base dst.stride dst.size) = false then
    .reject .jobAlign 0
  else if j.width = 0 ∨ j.height = 0 then .empty
  else if (src.meets dst && !inPlaceCopy s.act j) = true then .refuse .planesOverlap
  else if (src.onDevice s.devices || dst.onDevice s.devices) = true then .refuse .planeOnDevice
  else .run j

/-! ### Setup and the order of the steps (46_engine R317, R318, R320, R321) -/

/-- The job's setup: gain and offset, rotation, seed, and the cleared accumulator (46_engine R317, R318). -/
def jobSetup (s : State) (j : JobLatch) : Run :=
  let chroma := isChroma s.act.family j.plane
  { mem := s.mem
    busFail := s.busFail
    work :=
      { j := j
        g := gainQ32 s.act.src s.act.dst chroma
        o := offsetQ32 s.act.src s.act.dst chroma
        rot := if s.act.dyn then j.frame.toNat % 4 else 0
        ns := if drawsNoise s.act.routine then ngSeed j.frame j.plane s.act.static s.act.corr else s.work.ns
        qc := s.work.qc
        y := 0
        x := 0
        dir := .right }
    acc := if usesAccumulator s.act.routine then Accum.zero else s.acc
    writes := [] }

/-- The columns of row y in their order: serpentine for ERRDIF, left to right else (46_engine R321). -/
def columnOrder (r : Routine) (width y : Nat) : List Nat :=
  if usesAccumulator r && rowDir y == .left then (List.range width).reverse else List.range width

/-- The steps of row y (46_engine R320). -/
def rowSteps (r : Routine) (width y : Nat) : List JobStep :=
  .rowStart y :: ((columnOrder r width y).map (fun x => JobStep.pixel x y) ++ [.rowEnd y])

/-- The steps of a job, rows top to bottom (46_engine R320). -/
def jobSteps (r : Routine) (width height : Nat) : List JobStep :=
  (List.range height).flatMap (rowSteps r width)

/-! ### The value of a pixel, by routine (46_engine R322 to R327)

Each takes the source container `raw` and gives the destination container with the run after it. -/

/-- One noise draw: the noise term of the pixel, in Q16 (41_noise R167, R169). -/
def drawNoise (act : ActiveConfig) (r : Run) : Int × Run :=
  let d := ngDraw r.work.ns act.tpdfNoise
  (d.2 * ampnEff act, { r with work := { r.work with ns := d.1 } })

/-- COPY (46_engine R322, 45_scale R290). -/
def copyPixel (raw : Nat) (r : Run) : Nat × Run := (raw, r)

/-- SHIFT (46_engine R323, 45_scale R288). -/
def shiftPixel (act : ActiveConfig) (raw : Nat) (r : Run) : Nat × Run :=
  (shiftValue act.src.bits act.dst.bits (intSample act.src raw), r)

/-- FLOAT_OUT (46_engine R324, 45_scale R289). -/
def floatOutPixel (act : ActiveConfig) (raw : Nat) (r : Run) : Nat × Run :=
  (floatOutValue (intSample act.src raw) r.work.g r.work.o, r)

/-- ORDERED (46_engine R325): T = W + patval · ampo + n · ampn_eff. -/
def orderedPixel (s : State) (x y raw : Nat) (r : Run) : Nat × Run :=
  let n := drawNoise s.act r
  let t := workOf s.act.src raw r.work.g r.work.o + patval s r.work.rot x y * s.act.ampo + n.1
  ((quantize t s.act.dst.bits).1.toNat, n.2)

/-- The quasirandom value of a pixel, doubled under TPDF_OUT (43_quasirandom R213). -/
def qgPixelValue (act : ActiveConfig) (qc : Word) : Int :=
  if act.tpdfOut then 2 * qgValue qc else qgValue qc

/-- QRS (46_engine R326): T = W + qv · ampo + n · ampn_eff, and the counter advances. -/
def qrsPixel (act : ActiveConfig) (raw : Nat) (r : Run) : Nat × Run :=
  let n := drawNoise act r
  let t := workOf act.src raw r.work.g r.work.o + qgPixelValue act r.work.qc * act.ampo + n.1
  ((quantize t act.dst.bits).1.toNat, { n.2 with work := { n.2.work with qc := r.work.qc + qgA1 } })

/-- ERRDIF, the step `ed_pixel` (44_error_diffusion R231, R243): T = W + acc(y, x) + CAR0 + n · ampn_eff, and the
quantizer's error times ampo is split and spread. -/
def diffusePixel (s : State) (k : Kernel) (x y raw : Nat) (r : Run) : Nat × Run :=
  let n := drawNoise s.act r
  let depth := kernelDepth k
  let t := workOf s.act.src raw r.work.g r.work.o + accCell depth r.acc y x + r.acc.car0.toInt + n.1
  let q := quantize t s.act.dst.bits
  let sl := splitError k (ostroEntry s.ostroTab (ostroIndex s.act.src raw)) (rnd (q.2 * s.act.ampo) 256)
  (q.1.toNat, { n.2 with acc := accDiffuse depth r.work.dir x y sl r.acc })

/-- The destination container of a pixel and the run after it, by the active routine (46_engine R313, R322 to
R327). -/
def pixelValue (s : State) (x y raw : Nat) (r : Run) : Nat × Run :=
  match s.act.routine with
  | .copy => copyPixel raw r
  | .shift => shiftPixel s.act raw r
  | .floatOut => floatOutPixel s.act raw r
  | .ordered => orderedPixel s x y raw r
  | .qrs => qrsPixel s.act raw r
  | .errdif k => diffusePixel s k x y raw r

/-! ### The steps of a job -/

/-- The direction at the start of row y: ERRDIF sets it, the other routines leave it (46_engine R320). -/
def dirAtRowStart (routine : Routine) (y : Nat) (dir : Dir) : Dir :=
  match routine with
  | .errdif _ => rowDir y
  | .copy => dir
  | .shift => dir
  | .floatOut => dir
  | .ordered => dir
  | .qrs => dir

/-- The counter at the start of row y: QRS seeds it, the other routines leave it (43_quasirandom R213). -/
def qcAtRowStart (act : ActiveConfig) (j : JobLatch) (y : Nat) (qc : Word) : Word :=
  match act.routine with
  | .qrs => qgSeed y j.frame j.plane act.dyn act.corr
  | .copy => qc
  | .shift => qc
  | .floatOut => qc
  | .ordered => qc
  | .errdif _ => qc

/-- The accumulator at the end of row y: ERRDIF's row end, the other routines leave it (46_engine R320). -/
def accAtRowEnd (routine : Routine) (y : Nat) (a : Accum) : Accum :=
  match routine with
  | .errdif k => accRowEnd k y a
  | .copy => a
  | .shift => a
  | .floatOut => a
  | .ordered => a
  | .qrs => a

/-- A row's start: the direction for ERRDIF, the counter for QRS (46_engine R320, 43_quasirandom R213). -/
def rowStartStep (s : State) (y : Nat) (r : Run) : Run :=
  { r with work := { r.work with
    y := y
    dir := dirAtRowStart s.act.routine y r.work.dir
    qc := qcAtRowStart s.act r.work.j y r.work.qc } }

/-- A row's end: ERRDIF's row end, and `eol` for the routines that draw noise (46_engine R320, 41_noise R170). -/
def rowEndStep (s : State) (y : Nat) (r : Run) : Run :=
  { r with
    acc := accAtRowEnd s.act.routine y r.acc
    work := { r.work with ns := if drawsNoise s.act.routine then ngEol r.work.ns else r.work.ns } }

/-- The second half of a pixel: the write of `v` to destination sample (x, y), which may fail (46_engine R321,
20_memory R87, R89). -/
def writePixel (s : State) (x y v : Nat) (r : Run) : Except BusFailure Run :=
  let p := destPlane s.act r.work.j
  let a := p.addr x y
  let f := busAccess r.busFail
  let r' := { r with busFail := f.2, writes := (a, v) :: r.writes }
  if f.1 then .ok { r' with mem := memWrite r.mem a p.size v } else .error { addr := a, run := r' }

/-- A pixel: its source sample read, its value computed, its destination sample written (46_engine R321,
20_memory R87). -/
def pixelStep (s : State) (x y : Nat) (r : Run) : Except BusFailure Run :=
  let p := sourcePlane s.act r.work.j
  let a := p.addr x y
  let f := busAccess r.busFail
  let r' := { r with busFail := f.2, work := { r.work with y := y, x := x } }
  if f.1 then
    let v := pixelValue s x y (memRead r.mem a p.size) r'
    writePixel s x y v.1 v.2
  else .error { addr := a, run := r' }

/-- One step of a job. -/
def jobStep (s : State) (m : JobStep) (r : Run) : Except BusFailure Run :=
  match m with
  | .rowStart y => .ok (rowStartStep s y r)
  | .pixel x y => pixelStep s x y r
  | .rowEnd y => .ok (rowEndStep s y r)

/-- The steps of a job in order, up to the first failing access (20_memory R89, 60_exceptions R367). -/
def runSteps (s : State) : List JobStep → Run → Except BusFailure Run
  | [], r => .ok r
  | m :: t, r =>
    match jobStep s m r with
    | .ok r' => runSteps s t r'
    | .error b => .error b

/-- All the steps of the job `j` under the active configuration (46_engine R316). -/
def runJob (s : State) (j : JobLatch) : Except BusFailure Run :=
  runSteps s (jobSteps s.act.routine j.width j.height) (jobSetup s j)

/-! ### Finish and bus errors (46_engine R319, 20_memory R89) -/

/-- The finish of a job that raised no error: RNG_STATE <- NS for the routines that draw noise, the gain and offset
registers for those that use them (46_engine R319). -/
def finishJob (r : Run) (s : State) : State :=
  let t := { s with mem := r.mem, busFail := r.busFail, work := r.work, acc := r.acc }
  let u := if usesGain s.act.routine then showGain r.work.g r.work.o t else t
  if drawsNoise s.act.routine then { u with inp := { u.inp with rngState := r.work.ns } } else u

/-- Plane memory after a bus error: each destination sample the job had computed has landed or not, as the free value
`Config.sampleLands` says (20_memory R89, log 9). `writes` is latest first. -/
def landedMem (n size : Nat) (m : Memory) : List (Word × Nat) → Memory
  | [] => m
  | (a, v) :: t =>
    if Config.sampleLands n t.length then memWrite (landedMem n size m t) a size v else landedMem n size m t

/-- The state a failed job leaves behind its error: the destination samples old or new, the working state unspecified,
no end-of-job register written (20_memory R89, 46_engine R319; log 9, 10). -/
def abandonJob (r : Run) (s : State) : State :=
  { s with
    mem := landedMem s.free (containerSize s.act.dst) s.mem r.writes
    busFail := r.busFail
    work := Config.anyWork s.free
    acc := r.acc
    free := s.free + 1 }

/-- `PROCESS_PLANE` (46_engine R316). -/
def execProcessPlane (s : State) : Host.Outcome State Fault Refusal :=
  match planJob s with
  | .reject e info => .next (failWith e info s)
  | .empty => .next (succeed s)
  | .refuse r => .refused r
  | .run j =>
    match runJob s j with
    | .ok r => .next (succeed (finishJob r s))
    | .error b => .next (failWith .busError b.addr (abandonJob b.run s))

end Sys2Proof.Machine
end

