-- ==== Sys2Proof/Machine/Dispatch.lean ====
section
/-! DEFINITION. One arm per command (30_encoding R114): the meaning of an accepted command, from its operands to its
completion (46_engine R311). -/

namespace Sys2Proof.Machine

def exec (i : Instr) (s : State) : Host.Outcome State Fault Refusal :=
  match i with
  | .nop => Sys2Proof.Machine.execNop s
  | .construct => Sys2Proof.Machine.execConstruct s
  | .processPlane => Sys2Proof.Machine.execProcessPlane s
  | .softReset => Sys2Proof.Machine.execSoftReset s
  | .rngStep => Sys2Proof.Machine.execRngStep s
  | .rngEol => Sys2Proof.Machine.execRngEol s
  | .rngSeed => Sys2Proof.Machine.execRngSeed s
  | .qrsSeed y => Sys2Proof.Machine.execQrsSeed y s
  | .qrsNext => Sys2Proof.Machine.execQrsNext s
  | .patRead px py rot => Sys2Proof.Machine.execPatRead px py rot s
  | .gainQuery => Sys2Proof.Machine.execGainQuery s
  | .edSplit idx => Sys2Proof.Machine.execEdSplit idx s

end Sys2Proof.Machine
end

