-- ==== Sys2Proof/Machine/Window.lean ====
section
/-! DEFINITION. What HOST and the reset input do to the FDE: the register window (30_encoding R110, 20_memory R81, R82),
the submission of commands (46_engine R310), plane memory as HOST sees it (20_memory R94), and the reset input
(70_reset R390). -/

namespace Sys2Proof.Machine

/-! ### Constant registers (10_state R31, R38) -/

/-- `ID` (10_state R31). -/
def idWord : Word := 0x464D5431

/-- `CAPS`: MAX_W in 15:0, MAX_PAT in 23:16, REV = 1 in 31:24 (10_state R38). -/
def capsWord : Word := BitVec.ofNat 32 (Config.maxW + Config.maxPat * 2 ^ 16 + 1 * 2 ^ 24)

/-! ### The defined bits of the read-write registers (10_state R37, R39 to R47) -/

/-- The defined bits of CFG_SRC_FMT and CFG_DST_FMT (10_state R39). -/
def formatMask : Word := 0x0000033F

/-- The defined bits of CFG_MODE (10_state R40). -/
def modeMask : Word := 0x001F3F0F

/-- The defined bits of CFG_PLANES (10_state R41). -/
def planesMask : Word := 0x00000073

/-- The defined bits of JOB_WIDTH and JOB_HEIGHT (10_state R44). -/
def sizeMask : Word := 0x0000FFFF

/-- The defined bits of JOB_PLANE (10_state R45). -/
def planeMask : Word := 0x00000003

/-! ### Reads and writes of the window -/

/-- A read at offset `off`: every register of 30_encoding R110; CMD, reserved offsets and reserved bits read 0
(10_state R34, R51). A read has no side effect (20_memory R82). -/
def readRegister (off : Nat) (s : State) : Word :=
  match off with
  | 0x00 => idWord
  | 0x04 => s.statusWord
  | 0x08 => 0
  | 0x0C => s.errCode.setWidth 32
  | 0x10 => s.errInfo
  | 0x14 => s.irqEn
  | 0x18 => s.irqStatus
  | 0x1C => capsWord
  | 0x20 => s.inp.cfgSrcFmt
  | 0x24 => s.inp.cfgDstFmt
  | 0x28 => s.inp.cfgMode
  | 0x2C => s.inp.cfgPlanes
  | 0x30 => s.inp.cfgAmpo
  | 0x34 => s.inp.cfgAmpn
  | 0x40 => s.inp.jobSrcBase
  | 0x44 => s.inp.jobSrcStride
  | 0x48 => s.inp.jobDstBase
  | 0x4C => s.inp.jobDstStride
  | 0x50 => s.inp.jobWidth
  | 0x54 => s.inp.jobHeight
  | 0x58 => s.inp.jobFrame
  | 0x5C => s.inp.jobPlane
  | 0x60 => s.inp.rngState
  | 0x64 => s.rngOut
  | 0x68 => s.inp.qrsPhase
  | 0x6C => s.qrsOut
  | 0x70 => s.gainLo
  | 0x74 => s.gainHi
  | 0x78 => s.offLo
  | 0x7C => s.offHi
  | 0x80 => s.patOut
  | 0x84 => s.inp.edErrIn
  | 0x88 => s.edDiscard
  | 0x90 => s.edSlots[0]
  | 0x94 => s.edSlots[1]
  | 0x98 => s.edSlots[2]
  | 0x9C => s.edSlots[3]
  | 0xA0 => s.edSlots[4]
  | 0xA4 => s.edSlots[5]
  | 0xA8 => s.edSlots[6]
  | 0xAC => s.edSlots[7]
  | 0xB0 => s.edSlots[8]
  | 0xB4 => s.edSlots[9]
  | 0xB8 => s.edSlots[10]
  | 0xBC => s.edSlots[11]
  | _ => 0

/-- The input registers after a write of `v` at offset `off`: a read-write register stores its defined fields
(20_memory R82); every other offset leaves them. -/
def writeInput (off : Nat) (v : Word) (r : InputRegs) : InputRegs :=
  match off with
  | 0x20 => { r with cfgSrcFmt := v &&& formatMask }
  | 0x24 => { r with cfgDstFmt := v &&& formatMask }
  | 0x28 => { r with cfgMode := v &&& modeMask }
  | 0x2C => { r with cfgPlanes := v &&& planesMask }
  | 0x30 => { r with cfgAmpo := v }
  | 0x34 => { r with cfgAmpn := v }
  | 0x40 => { r with jobSrcBase := v }
  | 0x44 => { r with jobSrcStride := v }
  | 0x48 => { r with jobDstBase := v }
  | 0x4C => { r with jobDstStride := v }
  | 0x50 => { r with jobWidth := v &&& sizeMask }
  | 0x54 => { r with jobHeight := v &&& sizeMask }
  | 0x58 => { r with jobFrame := v }
  | 0x5C => { r with jobPlane := v &&& planeMask }
  | 0x60 => { r with rngState := v }
  | 0x68 => { r with qrsPhase := v }
  | 0x84 => { r with edErrIn := v }
  | _ => r

/-- Submission of word `w` (46_engine R310): CMD_BUSY while a command runs, CMD_ILLEGAL for a word that is no command,
and else acceptance, which latches the word and the registers. The two errors leave the latch as it is
(60_exceptions R362, R364). -/
def submit (w : Word) (s : State) : State :=
  if s.busy then raiseError .cmdBusy w s
  else
    match decode w with
    | .illegal _ => raiseError .cmdIllegal w s
    | .command _ => { s with latch := some { word := w, regs := s.inp } }

/-- A write of `v` at offset `off` (30_encoding R110, 20_memory R82): CMD submits, IRQ_STATUS clears the bits written
as 1, IRQ_EN and the input registers store their defined fields, and any other write is ignored. -/
def writeRegister (off : Nat) (v : Word) (s : State) : State :=
  match off with
  | 0x08 => submit v s
  | 0x14 => { s with irqEn := v &&& irqMask }
  | 0x18 => acknowledge v s
  | _ => { s with inp := writeInput off v s.inp }

/-- What is wrong with an access of `width` bits at offset `off` of the window, if anything (20_memory R81, 10_state R51;
log 19). -/
def windowProblem (off width : Nat) : Option Refusal :=
  if 256 ≤ off then some .outsideWindow
  else if width ≠ 32 ∨ off % 4 ≠ 0 then some .badWindowAccess
  else none

/-! ### A running job, as HOST's accesses to plane memory meet it (20_memory R94) -/

/-- What the latched command will do, when it is PROCESS_PLANE. -/
def runningPlan (s : State) : Option JobPlan :=
  match s.latch with
  | none => none
  | some l =>
    match decode l.word with
    | .command .processPlane => some (planJob s)
    | _ => none

/-- The memory the job `j` leaves, or had made when an access failed: the job's values for its destination. -/
def jobMemory (s : State) (j : JobLatch) : Memory :=
  match runJob s j with
  | .ok r => r.mem
  | .error b => b.run.mem

/-- HOST writes byte `b` at address `a` (20_memory R80): refused on a running job's planes (R94, log 17). -/
def hostMemWrite (a : Word) (b : Byte) (s : State) : Host.Outcome State Fault Refusal :=
  match runningPlan s with
  | some (.run j) =>
    if ((sourcePlane s.act j).holds a || (destPlane s.act j).holds a) = true then .refused .hostWritesRunningPlane
    else .next { s with mem := memSetByte s.mem a b }
  | _ => .next { s with mem := memSetByte s.mem a b }

/-- Whether a HOST read at address `a` returns a byte the spec leaves unspecified: a destination byte, read as `fresh`,
while the latched job is one that a model refuses (20_memory R88, R95). DESIGN CHOICE (log 18). -/
def readsUnspecified (a : Word) (fresh : Bool) (s : State) : Bool :=
  match runningPlan s with
  | some (.refuse _) => fresh && (destPlane s.act (jobOf s.operands)).holds a
  | _ => false

/-- The byte a HOST read at address `a` returns: on a running job's destination the old byte or the job's, as `fresh`
says (20_memory R94). DESIGN CHOICE (log 18): on the destination of a latched job that will be refused, the old byte or
a free value, as `fresh` says, since the spec promises no value there. -/
def hostByte (a : Word) (fresh : Bool) (s : State) : Byte :=
  match runningPlan s with
  | some (.run j) =>
    if (fresh && (destPlane s.act j).holds a) = true then memByte (jobMemory s j) a else memByte s.mem a
  | _ => if readsUnspecified a fresh s then Config.anyHostByte s.free a else memByte s.mem a

/-- HOST reads the byte at address `a` (20_memory R80, R94): the value stands in `hostData` (log 26), and a free value,
if one was taken, is used up (log 27). -/
def hostMemRead (a : Word) (fresh : Bool) (s : State) : State :=
  { s with
    hostData := (hostByte a fresh s).setWidth 32
    free := if readsUnspecified a fresh s then s.free + 1 else s.free }

/-- The run of the first `done` steps of the job `j`, or up to its failing access. -/
def partialRun (s : State) (j : JobLatch) (done : Nat) : Run :=
  match runSteps s ((jobSteps s.act.routine j.width j.height).take done) (jobSetup s j) with
  | .ok r => r
  | .error b => b.run

/-- The reset input (70_reset R390): a running command is abandoned, and the plane writes its first `done` steps made
stay (log 20). A running job that a model refuses is refused here too. -/
def hardReset (done : Nat) (s : State) : Host.Outcome State Fault Refusal :=
  match runningPlan s with
  | some (.run j) =>
    .next (resetEngine { s with mem := (partialRun s j done).mem, busFail := (partialRun s j done).busFail })
  | some (.refuse r) => .refused r
  | _ => .next (resetEngine s)

/-! ### One operation -/

/-- A read by HOST of the register at `off`, which changes only what HOST has read (20_memory R82). DESIGN CHOICE
(log 26): the value stands in `hostData`. -/
def recordRead (off : Nat) (s : State) : State := { s with hostData := readRegister off s }

/-- One poll of `WAIT`, a read of STATUS like any other (30_encoding R121); `WAIT` is put back while BUSY reads 1.
DESIGN CHOICE (log 26): each poll is recorded as HOST's last read, so that `WAIT` ends with the STATUS word whose
BUSY is 0. -/
def pollStatus (s : State) : State :=
  let t := recordRead 0x04 s
  if s.busy then { t with host := .wait :: t.host } else t

/-- One operation of HOST, or the reset input, on a state whose `host` no longer lists it. -/
def hostOperation (op : HostOp) (s : State) : Host.Outcome State Fault Refusal :=
  match op with
  | .write off width v =>
    match windowProblem off width with
    | some r => .refused r
    | none => .next (writeRegister off v s)
  | .read off width =>
    match windowProblem off width with
    | some r => .refused r
    | none => .next (recordRead off s)
  | .wait => .next (pollStatus s)
  | .memWrite a b => hostMemWrite a b s
  | .memRead a fresh => .next (hostMemRead a fresh s)
  | .hardReset done => hardReset done s

/-- HOST's next operation, if it has one; an idle FDE with nothing to do stays as it is (60_exceptions R377). -/
def hostMove (s : State) : Host.Outcome State Fault Refusal :=
  match s.host with
  | [] => .next s
  | op :: rest => hostOperation op { s with host := rest }

/-- Whether HOST moves before the running command completes: `turns` says so and HOST has something to do (log 1). -/
def hostMovesFirst (s : State) : Bool :=
  s.turns.head? == some .host && !s.host.isEmpty

end Sys2Proof.Machine
end

