-- ==== Sys2Proof/Machine/Step.lean ====
section
/-! DEFINITION. One step of the machine: HOST performs an operation, or SEQ performs and completes the latched command
(46_engine R310, R311; 70_reset R394). -/

namespace Sys2Proof.Machine

/-- The turn of this step is used up. -/
def State.popTurn (s : State) : State := { s with turns := s.turns.tail }

/-- One step. With an empty latch HOST moves. With a full one `turns` says who moves; SEQ decodes the latched word,
performs the command on its latched operands and completes it, a whole job included (46_engine R311; log 1, 2). -/
def step (s : State) : Host.Outcome State Fault Refusal :=
  match s.latch with
  | none => hostMove s
  | some l =>
    if hostMovesFirst s then hostMove s.popTurn
    else
      match decode l.word with
      | .command i => exec i s.popTurn
      | .illegal _ => .fault .latchHoldsNoCommand

/-- `s` with the word given as `nbits` bits accepted: it stands in the command latch with the input registers as they
are, and SEQ moves next, so that the next step runs it (46_engine R310; log 3). A word that is no command is never
accepted: HOST's write of it to CMD comes next instead. -/
def State.withFetchWord (s : State) (nbits w : Nat) : State :=
  let word : Word := BitVec.ofNat 32 (w % 2 ^ nbits)
  match decode word with
  | .command _ => { s with latch := some { word := word, regs := s.inp }, turns := [] }
  | .illegal _ => { s with latch := none, host := .write 0x08 32 word :: s.host }

end Sys2Proof.Machine
end

