-- ==== Sys2Proof/Safety.lean ====
section
/-! DEFINITION. What claims say of a state and of a move: the invariant of the machine, part by part, and what a command
or an error leaves unchanged. -/

namespace Sys2Proof.Machine

/-! ### The invariant -/

/-- No reserved bit of a read-write register is set (10_state R39 to R45, R51). -/
def InputsMasked (r : InputRegs) : Prop :=
  r.cfgSrcFmt &&& ~~~formatMask = 0 ∧ r.cfgDstFmt &&& ~~~formatMask = 0 ∧ r.cfgMode &&& ~~~modeMask = 0 ∧
    r.cfgPlanes &&& ~~~planesMask = 0 ∧ r.jobWidth &&& ~~~sizeMask = 0 ∧ r.jobHeight &&& ~~~sizeMask = 0 ∧
    r.jobPlane &&& ~~~planeMask = 0

/-- No reserved bit of a host register is set, in the window or in the latch (10_state R37, R51, R57). -/
def ReservedClear (s : State) : Prop :=
  InputsMasked s.inp ∧ s.irqEn &&& ~~~irqMask = 0 ∧ s.irqStatus &&& ~~~irqMask = 0 ∧
    ∀ l, s.latch = some l → InputsMasked l.regs

/-- Every value `ERR_CODE` may show (60_exceptions R361). -/
def knownCodes : List (BitVec 8) :=
  [0x00, 0x01, 0x02, 0x03, 0x04, 0x05, 0x06, 0x10, 0x11, 0x12, 0x13, 0x20, 0x21, 0x22, 0x23]

/-- The latch holds only words that are commands (46_engine R310). -/
def LatchDecodes (s : State) : Prop := ∀ l, s.latch = some l → ∃ i, decode l.word = .command i

/-- What CONSTRUCT's checks assure of a configuration (46_engine R312, R313). -/
def ConfigLegal (a : ActiveConfig) : Prop :=
  formatLegal a.src = true ∧ formatLegal a.dst = true ∧ a.side ∈ Config.patternSides ∧ 1 ≤ a.count ∧ a.count ≤ 4 ∧
    a.ampo ≤ 65535 ∧ a.ampn ≤ 65535 ∧ selectRoutine a.src a.dst a.mode = .ok a.routine

/-- An active configuration is a legal one (10_state R52). -/
def ActiveLegal (s : State) : Prop := s.cfgValid = true → ConfigLegal s.act

/-- The tables are such as a model may receive (00_scope R10). -/
def TablesLegal (s : State) : Prop :=
  (∀ side ∈ Config.patternSides, (vacTableOf s.vacRank side).Perm (List.range (side * side))) ∧
    ∀ i < 256, 1 ≤ (ostroEntry s.ostroTab i).total ∧ (ostroEntry s.ostroTab i).total ≤ 65535

/-- The pattern store has the shape of 10_state R53. -/
def PatternShaped (p : PatStore) : Prop :=
  p.length = 4 ∧ ∀ m ∈ p, m.length = 32 ∧ ∀ row ∈ m, row.length = 32

/-- A line lists only columns −MARGIN .. MAX_W − 1 + MARGIN, in canonical form (10_state R55). -/
def lineWf (l : Line) : Bool := cellsWf (0 : Word) lineCells 0 l

/-- Every line of the accumulator is such a line (10_state R55, 44_error_diffusion R247). -/
def AccumShaped (a : Accum) : Prop := lineWf a.line0 = true ∧ lineWf a.line1 = true ∧ lineWf a.line2 = true

/-- The invariant of the machine. -/
structure Inv (s : State) : Prop where
  memory : Memory.wf s.mem = true
  reserved : ReservedClear s
  code : s.errCode ∈ knownCodes
  latch : LatchDecodes s
  active : ActiveLegal s
  tables : TablesLegal s
  pattern : PatternShaped s.pat
  accum : AccumShaped s.acc

/-! ### What a move leaves unchanged -/

/-- `t` is `s` but for what completing with an error records: the error, and the emptied latch (60_exceptions R362). -/
def OnlyErrorRecorded (s t : State) : Prop :=
  t = { s with
    errCode := t.errCode
    errInfo := t.errInfo
    irqStatus := setErr s.irqStatus
    latch := none }

/-- Every byte of plane memory reads as before. -/
def MemorySame (s t : State) : Prop := ∀ a : Word, memByte t.mem a = memByte s.mem a

/-- Every byte of plane memory outside the plane reads as before. -/
def MemorySameOutside (p : Plane) (s t : State) : Prop :=
  ∀ a : Word, p.holds a = false → memByte t.mem a = memByte s.mem a

/-- The staging and job registers and the error input are as before; RNG_STATE and QRS_PHASE may differ. -/
def StagingSame (s t : State) : Prop :=
  t.inp = { s.inp with rngState := t.inp.rngState, qrsPhase := t.inp.qrsPhase }

/-- The configuration, the pattern store and the tables are as before (46_engine R330, 10_state R54). -/
def ConfigSame (s t : State) : Prop :=
  t.cfgValid = s.cfgValid ∧ t.act = s.act ∧ t.pat = s.pat ∧ t.vacRank = s.vacRank ∧ t.ostroTab = s.ostroTab

/-- What no command touches: HOST's operations and last read, the turns, the device regions, the tables. -/
def OutsideSame (s t : State) : Prop :=
  t.host = s.host ∧ t.turns = s.turns ∧ t.hostData = s.hostData ∧ t.devices = s.devices ∧ t.vacRank = s.vacRank ∧
    t.ostroTab = s.ostroTab

/-- The diagnostic result registers are as before: RNG_OUT, QRS_OUT, PAT_OUT, ED_DISCARD and ED_SLOT0 to ED_SLOT11. -/
def DiagnosticsSame (s t : State) : Prop :=
  t.rngOut = s.rngOut ∧ t.qrsOut = s.qrsOut ∧ t.patOut = s.patOut ∧ t.edDiscard = s.edDiscard ∧
    t.edSlots = s.edSlots

/-- GAIN and OFF are as before. -/
def GainSame (s t : State) : Prop :=
  t.gainLo = s.gainLo ∧ t.gainHi = s.gainHi ∧ t.offLo = s.offLo ∧ t.offHi = s.offHi

end Sys2Proof.Machine
end

