-- ==== Sys2Proof/Certificates/Slice0/Obligations.lean ====
section
/-! DEFINITION. What is claimed of the model, one `def Obligations.<Name> : Prop` for each entry of OBLIGATIONS.json, with
the few notions the statements share (`Sys2Proof.Claims`). Each docstring names the rules of spec/ a statement rests on. -/

namespace Sys2Proof.Claims

open Sys2Proof.Machine

/-! ### Notions of the statements -/

/-- The bits of a command word that are not reserved: the opcode and the argument fields (30_encoding R112). -/
def usedBits : Instr → Word
  | .qrsSeed _ => 0x00FFFFFF
  | .patRead _ _ _ => 0x031F1FFF
  | .edSplit _ => 0x0000FFFF
  | .nop => 0x000000FF
  | .construct => 0x000000FF
  | .processPlane => 0x000000FF
  | .softReset => 0x000000FF
  | .rngStep => 0x000000FF
  | .rngEol => 0x000000FF
  | .rngSeed => 0x000000FF
  | .qrsNext => 0x000000FF
  | .gainQuery => 0x000000FF

/-- The opcodes of 30_encoding R114. -/
def legalOpcodes : List Nat := [0x00, 0x01, 0x02, 0x03, 0x10, 0x11, 0x12, 0x20, 0x21, 0x30, 0x40, 0x50]

/-- The legal format words of 30_encoding R119. -/
def legalFormatWords : List Word :=
  [0x008, 0x009, 0x00A, 0x00B, 0x00C, 0x00E, 0x010, 0x208, 0x209, 0x20A, 0x20B, 0x20C, 0x20E, 0x210, 0x120, 0x320]

/-- The read-write registers but CMD and IRQ_STATUS (30_encoding R110). -/
def rwOffsets : List Nat :=
  [0x14, 0x20, 0x24, 0x28, 0x2C, 0x30, 0x34, 0x40, 0x44, 0x48, 0x4C, 0x50, 0x54, 0x58, 0x5C, 0x60, 0x68, 0x84]

/-- The reserved offsets of 10_state R51, and CMD, which reads 0 (R34). -/
def readsZero (off : Nat) : Bool := [0x08, 0x38, 0x3C, 0x8C].contains off || decide (0xC0 ≤ off)

/-- The bits of each register that are not reserved (10_state R31 to R51). -/
def definedBits (off : Nat) : Word :=
  if readsZero off then 0
  else if off = 0x04 then 0x00000703
  else if off = 0x0C then 0x000000FF
  else if off = 0x14 ∨ off = 0x18 then 0x00000003
  else if off = 0x20 ∨ off = 0x24 then 0x0000033F
  else if off = 0x28 then 0x001F3F0F
  else if off = 0x2C then 0x00000073
  else if off = 0x50 ∨ off = 0x54 then 0x0000FFFF
  else if off = 0x5C then 0x00000003
  else 0xFFFFFFFF

/-- Every offset of 30_encoding R110 but STATUS (O13) with what it shows. ID and CAPS are constants (10_state R31, R38),
CMD is write-only and reads 0 (R34); the reserved offsets read 0 (R51). -/
def shownRegisters (s : State) : List (Nat × Word) :=
  [(0x00, 0x464D5431), (0x08, 0), (0x0C, s.errCode.setWidth 32), (0x10, s.errInfo), (0x14, s.irqEn),
    (0x18, s.irqStatus), (0x1C, 0x01202000)] ++
  [(0x20, s.inp.cfgSrcFmt), (0x24, s.inp.cfgDstFmt), (0x28, s.inp.cfgMode), (0x2C, s.inp.cfgPlanes),
    (0x30, s.inp.cfgAmpo), (0x34, s.inp.cfgAmpn), (0x38, 0), (0x3C, 0)] ++
  [(0x40, s.inp.jobSrcBase), (0x44, s.inp.jobSrcStride), (0x48, s.inp.jobDstBase), (0x4C, s.inp.jobDstStride),
    (0x50, s.inp.jobWidth), (0x54, s.inp.jobHeight), (0x58, s.inp.jobFrame), (0x5C, s.inp.jobPlane)] ++
  [(0x60, s.inp.rngState), (0x64, s.rngOut), (0x68, s.inp.qrsPhase), (0x6C, s.qrsOut), (0x70, s.gainLo),
    (0x74, s.gainHi), (0x78, s.offLo), (0x7C, s.offHi), (0x80, s.patOut), (0x84, s.inp.edErrIn),
    (0x88, s.edDiscard), (0x8C, 0)] ++
  [(0x90, s.edSlots[0]), (0x94, s.edSlots[1]), (0x98, s.edSlots[2]), (0x9C, s.edSlots[3]), (0xA0, s.edSlots[4]),
    (0xA4, s.edSlots[5]), (0xA8, s.edSlots[6]), (0xAC, s.edSlots[7]), (0xB0, s.edSlots[8]), (0xB4, s.edSlots[9]),
    (0xB8, s.edSlots[10]), (0xBC, s.edSlots[11])] ++
  [(0xC0, 0), (0xC4, 0), (0xC8, 0), (0xCC, 0), (0xD0, 0), (0xD4, 0), (0xD8, 0), (0xDC, 0), (0xE0, 0), (0xE4, 0),
    (0xE8, 0), (0xEC, 0), (0xF0, 0), (0xF4, 0), (0xF8, 0), (0xFC, 0)]

/-- Every host register reads as after reset, the FDE is idle with no configuration, and IRQ is deasserted
(10_state R59). -/
def ReadsAsReset (t : State) : Prop :=
  (∀ off, readRegister off t = if off = 0x00 then 0x464D5431 else if off = 0x1C then 0x01202000 else 0) ∧
    t.cfgValid = false ∧ t.latch = none ∧ t.irq = false

/-- `t` is `s` but for the recorded error and, as the command has completed, the emptied latch (60_exceptions R362). -/
def failed (code : BitVec 8) (info : Word) (s : State) : State :=
  { s with errCode := code, errInfo := info, irqStatus := s.irqStatus ||| 0x2, latch := none }

/-- Two planes share a byte (20_memory R95). -/
def SharesByte (p q : Plane) : Prop := ∃ a : Word, p.holds a = true ∧ q.holds a = true

/-- Distinct samples of a plane share no byte. -/
def SamplesApart (p : Plane) : Prop :=
  ∀ x y x' y', x < p.width → y < p.height → x' < p.width → y' < p.height → (x, y) ≠ (x', y') →
    ∀ a : Word, ¬ (inSpan (p.addr x y).toNat p.size a.toNat = true ∧ inSpan (p.addr x' y').toNat p.size a.toNat = true)

/-- No later row of the plane writes a byte of sample (x, y): what its own row wrote there stays (46_engine R316, R320:
where rows overlap, the last one wins). The samples of the last row always qualify. -/
def LastWritten (p : Plane) (x y : Nat) : Prop :=
  ∀ x' y', x' < p.width → y < y' → y' < p.height →
    ∀ a : Word, ¬ (inSpan (p.addr x y).toNat p.size a.toNat = true ∧ inSpan (p.addr x' y').toNat p.size a.toNat = true)

/-- HOST, or the reset input, moves in this step: the latch is empty, or it is HOST's turn and HOST has something to
do. Else SEQ performs the latched command. Whose turn it is is the model's own (log 1). -/
def HostActs (s : State) : Prop := s.latch = none ∨ (s.turns.head? = some .host ∧ s.host ≠ [])

/-- The command word an error of 60_exceptions R361 reports: the latched one. With an empty latch, which no step meets,
the command's word with its reserved bits 0 (log 6). -/
def reportedWord (s : State) (i : Instr) : Word :=
  match s.latch with
  | some l => l.word
  | none => encode i

/-- `rnd(n, d)` of 00_scope R12: n/d rounded to nearest, ties toward plus infinity. -/
def nearest (n : Int) (d : Nat) : Int := ⌊(n : ℚ) / d + 1 / 2⌋

/-- `step(s)` of 41_noise R161. -/
def ruleStep (s : Word) : Word := BitVec.ofNat 32 ((s.toNat * 1664525 + 1013904223) % 2 ^ 32)

/-- The top byte of a noise state as a signed value (41_noise R167). -/
def signedTop (s : Word) : Int := (s.extractLsb' 24 8).toInt

/-- The sample format a format word holds: BITS in 5:0, FLOAT in bit 8, FULL in bit 9 (10_state R39). -/
def ruleFormat (w : Word) : Format := { bits := w.toNat % 64, float := w.getLsbD 8, full := w.getLsbD 9 }

/-- The modes by number, MODE 0 first (30_encoding R117). -/
def modesByNumber : List Mode :=
  [.fast, .flat, .bayer, .vac, .qrs, .diffuse .floydSteinberg, .diffuse .filterLite, .diffuse .stucki,
    .diffuse .atkinson, .diffuse .ostromoukhov]

/-- The color families by number, FAMILY 0 first (10_state R41). -/
def familiesByNumber : List Family := [.gray, .rgb, .yuv]

/-- The job the job registers hold (10_state R43 to R45, R56). -/
def ruleJob (r : InputRegs) : JobLatch :=
  { srcBase := r.jobSrcBase, srcStride := r.jobSrcStride, dstBase := r.jobDstBase, dstStride := r.jobDstStride,
    width := r.jobWidth.toNat % 2 ^ 16, height := r.jobHeight.toNat % 2 ^ 16, frame := r.jobFrame,
    plane := r.jobPlane.toNat % 4 }

/-- The bases and strides of the job are multiples of the container sizes (20_memory R86). -/
def JobAligned (s : State) (j : JobLatch) : Prop :=
  j.srcBase.toNat % containerSize s.act.src = 0 ∧ j.srcStride.toInt % (containerSize s.act.src : Int) = 0 ∧
    j.dstBase.toNat % containerSize s.act.dst = 0 ∧ j.dstStride.toInt % (containerSize s.act.dst : Int) = 0

/-- The checks of 46_engine R316 pass, and neither side of the plane is 0. -/
def JobPassesChecks (s : State) (j : JobLatch) : Prop :=
  j = jobOf s.operands ∧ s.cfgValid = true ∧ j.plane < s.act.count ∧
    ((∃ k, s.act.routine = .errdif k) → j.width ≤ 8192) ∧ JobAligned s j ∧ 0 < j.width ∧ 0 < j.height

/-- `j` is the job PROCESS_PLANE runs in `s`: its checks pass, neither side is 0, the planes share no byte unless it is
the in-place COPY of 20_memory R95, and neither lies on a device region (R88). -/
def JobAccepted (s : State) (j : JobLatch) : Prop :=
  JobPassesChecks s j ∧
    (SharesByte (sourcePlane s.act j) (destPlane s.act j) →
      s.act.routine = .copy ∧ j.srcBase = j.dstBase ∧ j.srcStride = j.dstStride) ∧
    (sourcePlane s.act j).onDevice s.devices = false ∧ (destPlane s.act j).onDevice s.devices = false

/-- The source container of sample (x, y) of the job (45_scale R285). -/
def sourceSample (s : State) (j : JobLatch) (x y : Nat) : Nat :=
  memRead s.mem ((sourcePlane s.act j).addr x y) (containerSize s.act.src)

/-- The destination container of sample (x, y) of the job in a state `t` after it. -/
def destSample (s t : State) (j : JobLatch) (x y : Nat) : Nat :=
  memRead t.mem ((destPlane s.act j).addr x y) (containerSize s.act.dst)

/-- The noise state before pixel (x, y) of a job whose rows run left to right, (0, H) being the state after the last
row's `eol`: a draw a pixel, an `eol` a row (41_noise R170). -/
def streamAt (act : ActiveConfig) (j : JobLatch) (x y : Nat) : Word :=
  (fun ns => (ngDraw ns act.tpdfNoise).1)^[x]
    ((fun ns => ngEol ((fun ns => (ngDraw ns act.tpdfNoise).1)^[j.width] ns))^[y]
      (ngSeed j.frame j.plane act.static act.corr))

/-- The noise term of pixel (x, y) of such a job, in Q16 (41_noise R169). -/
def noiseTerm (act : ActiveConfig) (j : JobLatch) (x y : Nat) : Int :=
  (ngDraw (streamAt act j x y) act.tpdfNoise).2 * ampnEff act

/-- The gain and offset of the job (46_engine R317). -/
def jobGain (act : ActiveConfig) (j : JobLatch) : Int := gainQ32 act.src act.dst (isChroma act.family j.plane)

/-- The offset of the job (46_engine R317). -/
def jobOffset (act : ActiveConfig) (j : JobLatch) : Int := offsetQ32 act.src act.dst (isChroma act.family j.plane)

/-- The [min, max] range of a format as exact rationals (45_scale R280). -/
def rangeOf (f : Format) (chroma : Bool) : ℚ × ℚ :=
  if f.float then (if chroma then (-1 / 2, 1 / 2) else (0, 1))
  else if f.full then (0, 2 ^ f.bits - 1)
  else (16 * 2 ^ (f.bits - 8), (if chroma then 240 else 235) * 2 ^ (f.bits - 8))

/-- The exact gain of 45_scale R282. -/
def exactGain (src dst : Format) (chroma : Bool) : ℚ :=
  ((rangeOf dst chroma).2 - (rangeOf dst chroma).1) / ((rangeOf src chroma).2 - (rangeOf src chroma).1)

/-- The exact offset of 45_scale R282. -/
def exactOffset (src dst : Format) (chroma : Bool) : ℚ :=
  (rangeOf dst chroma).1 - (rangeOf src chroma).1 * exactGain src dst chroma

/-- The canonical Bayer rank: the source's quadrant order 0, 2, 3, 1 over the parent's ranks (42_pattern R183). -/
def bayerRank : Nat → Nat → Nat → Nat
  | 0, _, _ => 0
  | n + 1, y, x => bayerRank n (y / 2) (x / 2) + [0, 2, 3, 1].getD (y % 2 * 2 + x % 2) 0 * 4 ^ n

/-- Cell (y, x) of the base pattern of a configuration (42_pattern R181, R183 to R185). `VAC_RANK` is listed by side,
1 first, each table row-major (10_state R54). -/
def ruleBase (ranks : List (List Nat)) (act : ActiveConfig) (y x : Nat) : Int :=
  match act.mode with
  | .bayer => ((bayerRank (Nat.log2 act.side) y x * 256 / (act.side * act.side) : Nat) : Int) - 128
  | .vac =>
    (((ranks.getD (Nat.log2 act.side) []).getD (y * act.side + x) 0 * 256 / (act.side * act.side) : Nat) : Int) - 128
  | .fast => 0
  | .flat => 0
  | .qrs => 0
  | .diffuse _ => 0

/-- The TPDF remap of 42_pattern R186, with both coefficients 128. -/
def ruleTpdf (d : Int) : Int := d + Int.tdiv (d * (128 * d ^ 2 * 2 ^ 210 + 128 * d ^ 32)) (2 ^ 232)

/-- Cell (y, x) of the matrix the rotations read: the base pattern, after the remap if TPDF_OUT = 1 (42_pattern R186,
R187). -/
def ruleMatrix (ranks : List (List Nat)) (act : ActiveConfig) (y x : Nat) : Int :=
  if act.tpdfOut = true then ruleTpdf (ruleBase ranks act y x) else ruleBase ranks act y x

/-- Cell (y, x) of rotation k (42_pattern R187, R189). -/
def ruleCell (ranks : List (List Nat)) (act : ActiveConfig) (k y x : Nat) : Int :=
  match k with
  | 0 => ruleMatrix ranks act y x
  | 1 => ruleMatrix ranks act (act.side - 1 - x) y
  | 2 => ruleMatrix ranks act (act.side - 1 - y) (act.side - 1 - x)
  | _ => ruleMatrix ranks act x (act.side - 1 - y)

/-- `i` is the OS table index of a source container (44_error_diffusion R242). The binary32 layout is presumed
(log 25). -/
def IsTableIndex (src : Format) (raw i : Nat) : Prop :=
  (src.float = false → i = raw % 2 ^ src.bits / 2 ^ (src.bits - 8)) ∧
  (src.float = true →
    (∀ m, floatValueOf raw = .finite m → (i : Int) = min (max ⌊(m : ℚ) / 2 ^ 149 * 256⌋ 0) 255) ∧
    (floatValueOf raw = .nan → i = 0) ∧ (floatValueOf raw = .inf false → i = 255) ∧
    (floatValueOf raw = .inf true → i = 0))

/-! ### An ERRDIF job, pixel by pixel (46_engine R318, R320, R321, R327; 44_error_diffusion R231, R236, R243)

What a pixel hands to the next one is a pair: the accumulator with its carries, and the noise state. -/

/-- The column of the n-th pixel of row y: even rows run left to right, odd rows right to left (46_engine R321). -/
def edColumn (width y n : Nat) : Nat := if y % 2 = 0 then n else width - 1 - n

/-- The sum T of pixel (x, y) (44_error_diffusion R243). -/
def edSum (s : State) (j : JobLatch) (k : Kernel) (y x : Nat) (p : Accum × Word) : Int :=
  workOf s.act.src (sourceSample s j x y) (jobGain s.act j) (jobOffset s.act j) + accCell (kernelDepth k) p.1 y x +
    p.1.car0.toInt + (ngDraw p.2 s.act.tpdfNoise).2 * ampnEff s.act

/-- What pixel (x, y) leaves: its error times ampo split and spread in the direction of its row, and one draw
(44_error_diffusion R231, R235, R243). -/
def edPixel (s : State) (j : JobLatch) (k : Kernel) (y x : Nat) (p : Accum × Word) : Accum × Word :=
  (accDiffuse (kernelDepth k) (if y % 2 = 0 then .right else .left) x y
      (splitError k (ostroEntry s.ostroTab (ostroIndex s.act.src (sourceSample s j x y)))
        (nearest ((quantize (edSum s j k y x p) s.act.dst.bits).2 * s.act.ampo) 256)) p.1,
    (ngDraw p.2 s.act.tpdfNoise).1)

/-- What the first n pixels of row y leave (46_engine R321). -/
def edAlong (s : State) (j : JobLatch) (k : Kernel) (y : Nat) : Nat → Accum × Word → Accum × Word
  | 0, p => p
  | n + 1, p => edPixel s j k y (edColumn j.width y n) (edAlong s j k y n p)

/-- What row y starts from: row 0 from empty lines, carries of 0 and the job's seed (46_engine R317, R318), a later row
from what its predecessor's row end and `eol` leave (46_engine R320, 41_noise R170). -/
def edRowStart (s : State) (j : JobLatch) (k : Kernel) : Nat → Accum × Word
  | 0 => ({ line0 := [], line1 := [], line2 := [], car0 := 0, car1 := 0 },
      ngSeed j.frame j.plane s.act.static s.act.corr)
  | y + 1 =>
    (accRowEnd k y (edAlong s j k y j.width (edRowStart s j k y)).1,
      ngEol (edAlong s j k y j.width (edRowStart s j k y)).2)

/-- The first check of CONSTRUCT that fails (46_engine R312), over the register fields. -/
def constructError (r : InputRegs) : Option (BitVec 8) :=
  let src := ruleFormat r.cfgSrcFmt
  let dst := ruleFormat r.cfgDstFmt
  let mode := r.cfgMode.toNat % 16
  if 10 ≤ mode then some 0x01
  else if r.cfgSrcFmt &&& 0x33F ∉ legalFormatWords then some 0x02
  else if r.cfgDstFmt &&& 0x33F ∉ legalFormatWords then some 0x02
  else if mode = 0 ∧ ¬ ((src.float = true ∧ dst.float = true) ∨
      (src.float = false ∧ dst.float = false ∧ src.full = dst.full)) then some 0x03
  else if r.cfgMode.toNat / 2 ^ 8 % 64 ∉ [1, 2, 4, 8, 16, 32] then some 0x04
  else if r.cfgAmpo.toInt < 0 ∨ 65535 < r.cfgAmpo.toInt ∨ r.cfgAmpn.toInt < 0 ∨ 65535 < r.cfgAmpn.toInt then some 0x05
  else if r.cfgPlanes.toNat % 4 = 3 ∨ r.cfgPlanes.toNat / 2 ^ 4 % 8 = 0 ∨ 4 < r.cfgPlanes.toNat / 2 ^ 4 % 8 then some 0x06
  else none

/-- The kernel of MODE 5 to 9 (44_error_diffusion R230). -/
def kernelOfMode : Nat → Kernel
  | 5 => .floydSteinberg
  | 6 => .filterLite
  | 7 => .stucki
  | 8 => .atkinson
  | _ => .ostromoukhov

/-- The routine of 46_engine R313 for legal fields and a mode below 10 that passes the pairing check. -/
def routineFor (src dst : Format) (mode : Nat) : Routine :=
  if (src.float = true ∧ dst.float = true) ∨
      (src.float = false ∧ dst.float = false ∧ src.bits = dst.bits ∧ src.full = dst.full) then .copy
  else if mode = 0 then .shift
  else if dst.float = true then .floatOut
  else if mode ≤ 3 then .ordered
  else if mode = 4 then .qrs
  else .errdif (kernelOfMode mode)

end Sys2Proof.Claims

open Sys2Proof Sys2Proof.Machine Sys2Proof.Claims

/-! ### Encoding -/

/-- Decode and encode agree on every well-formed command (30_encoding R112, R113, R116). -/
def Obligations.DecodeOfEncodeIsTheCommand : Prop :=
  ∀ i : Instr, i.wellFormed = true → decode (encode i) = .command i

/-- 30_encoding R116: the decoder is total; it gives the command of the opcode with its arguments, or `Illegal(w)`; and
words that differ only in reserved bits decode alike. -/
def Obligations.DecoderIsTotalAndIgnoresReservedBits : Prop :=
  ∀ w : Word,
    (w.toNat % 256 ∉ legalOpcodes → decode w = .illegal w) ∧
    (w.toNat % 256 ∈ legalOpcodes → ∃ i, decode w = .command i ∧ opcode i = w.toNat % 256 ∧ i.wellFormed = true ∧
      encode i = w &&& usedBits i ∧ ∀ v : Word, v &&& usedBits i = w &&& usedBits i → decode v = .command i)

/-- The assembly table of 30_encoding R122. -/
def Obligations.AssemblyTable : Prop :=
  encode .nop = 0x00000000 ∧ encode .construct = 0x00000001 ∧ encode .processPlane = 0x00000002 ∧
    encode .softReset = 0x00000003 ∧ encode .rngStep = 0x00000010 ∧ encode .rngEol = 0x00000011 ∧
    encode .rngSeed = 0x00000012 ∧ encode (.qrsSeed 5) = 0x00000520 ∧ encode .qrsNext = 0x00000021 ∧
    encode (.patRead 3 1 0) = 0x00010330 ∧ encode (.patRead 0 0 2) = 0x02000030 ∧ encode .gainQuery = 0x00000040 ∧
    encode (.edSplit 200) = 0x0000C850 ∧
    decode 0x00060530 = .command (.patRead 5 6 0) ∧ decode 0x0000C850 = .command (.edSplit 200) ∧
    decode 0x00000520 = .command (.qrsSeed 5)

/-- 10_state R39, 30_encoding R119: the fields of a format word, and the legal ones, among the words a format register can
hold. -/
def Obligations.LegalFormatWordsAreTheListed : Prop :=
  ∀ w : Word, w &&& ~~~formatMask = 0 →
    formatOf w = ruleFormat w ∧ (formatLegal (ruleFormat w) = true ↔ w ∈ legalFormatWords)

/-! ### Steps, submission and completion -/

/-- A step runs the decoded command: with the latch full and SEQ to move, the step is `exec` of the command the latched
word decodes to, the turn used up (one step a command: log 1, 2); and a word put where SEQ fetches is run by the very
next step (log 3). With an empty latch, or in its turn, HOST performs the first operation of its list instead (20_memory
R92, 60_exceptions R377; log 1). -/
def Obligations.StepRunsTheLatchedCommand : Prop :=
  (∀ s l i, s.latch = some l → hostMovesFirst s = false → decode l.word = .command i →
    step s = exec i { s with turns := s.turns.tail }) ∧
  (∀ (s : State) (i : Instr), i.wellFormed = true → step (s.withFetchWord 32 (encode i).toNat) =
    exec i { s with latch := some { word := encode i, regs := s.inp }, turns := [] }) ∧
  (∀ s : State, hostMovesFirst s = true ↔ s.turns.head? = some .host ∧ s.host ≠ []) ∧
  (∀ s op rest, HostActs s → s.host = op :: rest → step s =
    hostOperation op { s with host := rest, turns := if s.latch.isSome = true then s.turns.tail else s.turns }) ∧
  ∀ s : State, s.latch = none → s.host = [] → step s = .next s

/-- 46_engine R310: what HOST's write of `w` to CMD does, in each of its three cases.
That the latch copies every input register is the model's choice (log 5). -/
def Obligations.SubmissionFollowsBusyAndDecode : Prop :=
  ∀ (s : State) (w : Word),
    (s.latch ≠ none → hostOperation (.write 0x08 32 w) s =
      .next { s with errCode := 0x21, errInfo := w, irqStatus := s.irqStatus ||| 0x2 }) ∧
    (s.latch = none → w.toNat % 256 ∉ legalOpcodes → hostOperation (.write 0x08 32 w) s =
      .next { s with errCode := 0x20, errInfo := w, irqStatus := s.irqStatus ||| 0x2 }) ∧
    (s.latch = none → w.toNat % 256 ∈ legalOpcodes → ∃ t, hostOperation (.write 0x08 32 w) s = .next t ∧
      t = { s with latch := some { word := w, regs := s.inp } } ∧ (readRegister 0x04 t).getLsbD 0 = true)

/-- Every command that completes either succeeds, with DONE set and the error record unchanged, or records one error
without setting DONE; an error other than BUS_ERROR leaves everything else as it was, and its information word is the
latched command word for NOT_CONSTRUCTED and WRONG_ROUTINE and 0 else (46_engine R311, 60_exceptions R361, R362, R363,
R367). SOFT_RESET is the exception. -/
def Obligations.EveryCommandSucceedsOrRecordsOneError : Prop :=
  ∀ (i : Instr) (s t : State), i ≠ .softReset → exec i s = .next t →
    t.latch = none ∧
    ((t.irqStatus = s.irqStatus ||| 0x1 ∧ t.errCode = s.errCode ∧ t.errInfo = s.errInfo) ∨
      (t.irqStatus = s.irqStatus ||| 0x2 ∧ t.errCode = 0x13) ∨
      (t.errCode ∈ [0x01, 0x02, 0x03, 0x04, 0x05, 0x06, 0x10, 0x11, 0x12, 0x22, 0x23] ∧
        t = failed t.errCode t.errInfo s ∧
        (t.errCode = 0x22 ∨ t.errCode = 0x23 → ∀ l, s.latch = some l → t.errInfo = l.word) ∧
        (t.errCode ≠ 0x22 → t.errCode ≠ 0x23 → t.errInfo = 0)))

/-- No command makes the machine stuck, and only PROCESS_PLANE is ever refused, for overlapping planes or a plane on a
device (20_memory R88, R95). Where the model refuses a job: log 15, 16, 30. -/
def Obligations.OnlyRefusedJobsStop : Prop :=
  ∀ (i : Instr) (s : State),
    (∀ f, exec i s ≠ .fault f) ∧
    ∀ r, exec i s = .refused r → i = .processPlane ∧ (r = .planesOverlap ∨ r = .planeOnDevice)

/-- A host write to the input registers after acceptance does not change the running command; what the command writes
to RNG_STATE or QRS_PHASE overwrites the host's write (46_engine R310, 70_reset R392 items 3 and 6). A command that does
not write them leaves the host's later write as it is: one that has no such effect, one that ends in an error, a job
that runs none of ORDERED, QRS and ERRDIF.
The operands a command reads are the latched registers; the latch copies every input register (log 5). With an empty
latch, which no step meets, they are the registers as they stand (log 6). -/
def Obligations.LatchedOperandsDecideTheOutcome : Prop :=
  (∀ s : State, s.latch = none → s.operands = s.inp) ∧
  ∀ (i : Instr) (s : State) (l : Latch) (r : InputRegs), s.latch = some l →
    s.operands = l.regs ∧
    (∀ t, exec i s = .next t → ∃ u, exec i { s with inp := r } = .next { t with inp := u } ∧
      (i = .softReset ∧ u = t.inp ∨ u = { r with rngState := u.rngState, qrsPhase := u.qrsPhase }) ∧
      (u.rngState = t.inp.rngState ∨ (t.inp.rngState = s.inp.rngState ∧ u.rngState = r.rngState)) ∧
      (u.qrsPhase = t.inp.qrsPhase ∨ (t.inp.qrsPhase = s.inp.qrsPhase ∧ u.qrsPhase = r.qrsPhase)) ∧
      (i = .rngStep ∨ i = .rngEol → u.rngState = t.inp.rngState) ∧ (i = .qrsNext → u.qrsPhase = t.inp.qrsPhase) ∧
      (i ≠ .rngStep → i ≠ .rngEol → i ≠ .rngSeed → i ≠ .processPlane → i ≠ .softReset → u.rngState = r.rngState) ∧
      ((∀ y, i ≠ .qrsSeed y) → i ≠ .qrsNext → i ≠ .softReset → u.qrsPhase = r.qrsPhase) ∧
      (i ≠ .softReset → t.irqStatus ≠ s.irqStatus ||| 0x1 → u = r) ∧
      (i = .processPlane → ¬ JobPassesChecks s (jobOf s.operands) ∨ s.act.routine = .copy ∨ s.act.routine = .shift ∨
        s.act.routine = .floatOut → u = r)) ∧
    ∀ q, exec i s = .refused q → exec i { s with inp := r } = .refused q

/-! ### The register window -/

/-- 30_encoding R110, 20_memory R82: which register each offset shows (STATUS, at 0x04, has its own statement), and what
reads and writes of the window do. Where a read's value goes is the model's own (log 26). -/
def Obligations.WindowAccessesDoWhatTheirRegisterSays : Prop :=
  (∀ s : State, ∀ p ∈ shownRegisters s, readRegister p.1 s = p.2) ∧
  ∀ (s : State) (off : Nat) (v : Word), off < 256 → off % 4 = 0 →
    hostOperation (.read off 32) s = .next { s with hostData := readRegister off s } ∧
    hostOperation (.write off 32 v) s = .next (writeRegister off v s) ∧
    (off = 0x08 → writeRegister off v s = submit v s) ∧
    (off = 0x18 → writeRegister off v s = { s with irqStatus := s.irqStatus &&& ~~~v }) ∧
    (off ∈ rwOffsets → readRegister off (writeRegister off v s) = v &&& definedBits off ∧
      (∀ off', off' ≠ off → readRegister off' (writeRegister off v s) = readRegister off' s) ∧
      writeRegister off v s = { s with inp := (writeRegister off v s).inp, irqEn := (writeRegister off v s).irqEn }) ∧
    (off ≠ 0x08 → off ≠ 0x18 → off ∉ rwOffsets → writeRegister off v s = s) ∧
    (off ≠ 0x08 → off ≠ 0x18 → writeRegister off v (writeRegister off v s) = writeRegister off v s)

/-- 20_memory R81 and 10_state R51: accesses the FDE gives no meaning to are refused.
The names and their order are the model's (log 19). -/
def Obligations.MeaninglessWindowAccessesAreRefused : Prop :=
  ∀ (s : State) (off width : Nat) (v : Word),
    (256 ≤ off → hostOperation (.read off width) s = .refused .outsideWindow ∧
      hostOperation (.write off width v) s = .refused .outsideWindow) ∧
    (off < 256 → (width ≠ 32 ∨ off % 4 ≠ 0) → hostOperation (.read off width) s = .refused .badWindowAccess ∧
      hostOperation (.write off width v) s = .refused .badWindowAccess)

/-- 10_state R51: reserved offsets and reserved bits read 0, in every state with the invariant's reserved bits clear, and
writes to reserved offsets are ignored. Reserved bits are stored as zeros (log 28). -/
def Obligations.ReservedSpaceReadsZero : Prop :=
  ∀ s : State, ReservedClear s →
    (∀ off, readRegister off s &&& ~~~(definedBits off) = 0) ∧
    ∀ off v, off ∈ [0x38, 0x3C, 0x8C] ∨ 0xC0 ≤ off → readRegister off s = 0 ∧ writeRegister off v s = s

/-- 10_state R32, R57, 30_encoding R118: the STATUS word; and WAIT, which reads it until BUSY reads 0 (30_encoding
R121). That WAIT makes one read a step, recorded as HOST's last read, is the model's choice (log 26). -/
def Obligations.StatusShowsLatchAndConfiguration : Prop :=
  ∀ s : State,
    (readRegister 0x04 s).getLsbD 0 = s.latch.isSome ∧ (readRegister 0x04 s).getLsbD 1 = s.cfgValid ∧
    (readRegister 0x04 s).toNat / 2 ^ 2 % 2 ^ 6 = 0 ∧ (readRegister 0x04 s).toNat / 2 ^ 11 % 2 ^ 21 = 0 ∧
    (s.cfgValid = false → (readRegister 0x04 s).toNat / 2 ^ 8 % 2 ^ 3 = 0) ∧
    (s.cfgValid = true →
      (s.act.routine = .copy → (readRegister 0x04 s).toNat / 2 ^ 8 % 2 ^ 3 = 1) ∧
      (s.act.routine = .shift → (readRegister 0x04 s).toNat / 2 ^ 8 % 2 ^ 3 = 2) ∧
      (s.act.routine = .floatOut → (readRegister 0x04 s).toNat / 2 ^ 8 % 2 ^ 3 = 3) ∧
      (s.act.routine = .ordered → (readRegister 0x04 s).toNat / 2 ^ 8 % 2 ^ 3 = 4) ∧
      (s.act.routine = .qrs → (readRegister 0x04 s).toNat / 2 ^ 8 % 2 ^ 3 = 5) ∧
      ((∃ k, s.act.routine = .errdif k) → (readRegister 0x04 s).toNat / 2 ^ 8 % 2 ^ 3 = 6)) ∧
    (∀ v, writeRegister 0x04 v s = s) ∧
    hostOperation .wait s = .next { s with
      hostData := readRegister 0x04 s
      host := if (readRegister 0x04 s).getLsbD 0 = true then .wait :: s.host else s.host }

/-! ### Reset, interrupt -/

/-- 10_state R59: what the host can see after reset, and the empty latch. -/
def Obligations.ResetRegisterValues : Prop :=
  ReadsAsReset State.reset ∧ State.reset.errCode = 0 ∧ State.reset.inp = InputRegs.reset

/-- 46_engine R315, 70_reset R391: SOFT_RESET always completes and leaves the reset state; the tables, plane memory and
HOST are untouched, and no DONE is set. -/
def Obligations.SoftResetLeavesTheResetState : Prop :=
  ∀ s : State, ∃ t, exec .softReset s = .next t ∧ ReadsAsReset t ∧ t.irqStatus = 0 ∧ t.inp = InputRegs.reset ∧
    t.mem = s.mem ∧ MemorySame s t ∧ OutsideSame s t ∧ t.busFail = s.busFail

/-- 70_reset R390: the reset input leaves the reset state, whatever runs; only a running job's destination bytes may
have changed; with no running job it completes and plane memory has not. In mid-job the samples of the steps done hold
the job's values and the others their old ones: how far the job had come is the operation's `done`, and a latched job
that the model refuses refuses the reset as well (log 20). That no access fails is an empty `busFail` (log 8). -/
def Obligations.ResetInputLeavesTheResetState : Prop :=
  ∀ (s : State) (done : Nat) (j : JobLatch), j = jobOf s.operands →
    (∀ t, hostOperation (.hardReset done) s = .next t → ReadsAsReset t ∧ t.inp = InputRegs.reset ∧ OutsideSame s t ∧
      MemorySameOutside (destPlane s.act j) s t) ∧
    ((∀ l, s.latch = some l → decode l.word = .command .processPlane → ¬ JobPassesChecks s j) →
      ∃ t, hostOperation (.hardReset done) s = .next t ∧ MemorySame s t) ∧
    ∀ l, s.latch = some l →
      (JobAccepted s j → ∃ t, hostOperation (.hardReset done) s = .next t) ∧
      (decode l.word = .command .processPlane →
        (∀ r, exec .processPlane s = .refused r → hostOperation (.hardReset done) s = .refused r) ∧
        (JobAccepted s j → s.busFail = [] → Memory.wf s.mem = true → SamplesApart (destPlane s.act j) →
          ∃ t u, hostOperation (.hardReset done) s = .next t ∧ exec .processPlane s = .next u ∧
            ∀ x < j.width, ∀ y < j.height, ∀ n,
              n = (if usesAccumulator s.act.routine = true ∧ y % 2 = 1 then j.width - 1 - x else x) →
              destSample s t j x y =
                if y * (j.width + 2) + 1 + n < done then destSample s u j x y else destSample s s j x y))

/-- 60_exceptions R368, 10_state R37: the level interrupt, and its acknowledgment. -/
def Obligations.InterruptIsALevel : Prop :=
  ∀ (s : State) (v : Word),
    (s.irq = true ↔ (s.irqStatus &&& s.irqEn &&& 0x1 ≠ 0 ∨ s.irqStatus &&& s.irqEn &&& 0x2 ≠ 0)) ∧
    (∀ t, hostOperation (.write 0x18 32 v) s = .next t → ∀ n, t.irqStatus.getLsbD n = (s.irqStatus.getLsbD n && !v.getLsbD n)) ∧
    ∃ t, hostOperation (.write 0x18 32 0x3) s = .next t ∧ t.irq = false ∧ t.errCode = s.errCode

/-- DONE and ERR stay set until HOST writes a 1 to them or the FDE is reset (60_exceptions R363, R366): the step that
clears one is HOST's write, the reset input, or SEQ performing SOFT_RESET. Which of HOST and SEQ moves is log 1. -/
def Obligations.StatusBitsAreSticky : Prop :=
  ∀ (s t : State) (n : Nat), step s = .next t → s.irqStatus.getLsbD n = true → t.irqStatus.getLsbD n = false →
    (HostActs s ∧ ((∃ v rest, s.host = .write 0x18 32 v :: rest ∧ v.getLsbD n = true) ∨
      ∃ k rest, s.host = .hardReset k :: rest)) ∨
    (¬ HostActs s ∧ ∃ l, s.latch = some l ∧ decode l.word = .command .softReset)

/-! ### Plane memory -/

/-- 20_memory R83: `MemRead` is the little-endian sum of the bytes, `MemWrite` stores v[8i+7:8i] at u32(a+i), and touches
no other byte. -/
def Obligations.PlaneMemoryIsLittleEndian : Prop :=
  ∀ (m : Memory) (a : Word) (n v : Nat), Memory.wf m = true → n ≤ 4 →
    memRead m a n = ∑ i ∈ Finset.range n, (memByte m (a + BitVec.ofNat 32 i)).toNat * 2 ^ (8 * i) ∧
    (∀ i < n, memByte (memWrite m a n v) (a + BitVec.ofNat 32 i) = BitVec.ofNat 8 (v / 2 ^ (8 * i))) ∧
    (∀ b : Word, (∀ i < n, b ≠ a + BitVec.ofNat 32 i) → memByte (memWrite m a n v) b = memByte m b) ∧
    memRead (memWrite m a n v) a n = v % 2 ^ (8 * n)

/-! ### Noise generator -/

/-- 41_noise R163 with R161: RNG_STEP, for every state.
With an empty latch, which no step meets, the operands are those of log 6. -/
def Obligations.RngStepAdvancesTheState : Prop :=
  ∀ s : State, ∃ t, exec .rngStep s = .next t ∧ MemorySame s t ∧
    t = { s with
      inp := { s.inp with
        rngState := BitVec.ofNat 32 ((s.operands.rngState.toNat * 1664525 + 1013904223) % 2 ^ 32) }
      rngOut := t.rngOut
      irqStatus := s.irqStatus ||| 0x1
      latch := none } ∧
    t.rngOut.toInt = (t.inp.rngState.extractLsb' 24 8).toInt

/-- 41_noise R164 with R162: RNG_EOL, for every state; the extra step happens exactly when bit 25 of the first result
is 1. With an empty latch, which no step meets, the operands are those of log 6. -/
def Obligations.RngEolTakesTheExtraStepOnBit25 : Prop :=
  ∀ s : State, ∃ t s1 : _, exec .rngEol s = .next t ∧ MemorySame s t ∧
    s1 = (s.operands.rngState.toNat * 1103515245 + 12345) % 2 ^ 32 ∧
    t = { s with
      inp := { s.inp with
        rngState := BitVec.ofNat 32 (if s1 / 2 ^ 25 % 2 = 1 then (s1 * 134775813 + 1) % 2 ^ 32 else s1) }
      irqStatus := s.irqStatus ||| 0x1
      latch := none }

/-- 41_noise R165 with R166: RNG_SEED, with and without a configuration.
With an empty latch, which no step meets, the operands are those of log 6. -/
def Obligations.RngSeedLoadsTheJobSeed : Prop :=
  ∀ s : State,
    (s.cfgValid = true → ∃ t, exec .rngSeed s = .next t ∧ MemorySame s t ∧
      t = { s with
        inp := { s.inp with
          rngState := (if s.act.static = true then 0x4B2E8F31 else s.operands.jobFrame) ^^^
            (if s.act.corr = true then (0 : Word) else (s.operands.jobPlane &&& 0x3) <<< 16) }
        irqStatus := s.irqStatus ||| 0x1
        latch := none }) ∧
    (s.cfgValid = false → exec .rngSeed s = .next (failed 0x22 (reportedWord s .rngSeed) s))

/-- 41_noise R161, R167, R168: a draw steps the state once, or twice under TPDF_NOISE, and gives the signed top byte, or
the sum of both; its ranges; and the effective amplitude. -/
def Obligations.NoiseRanges : Prop :=
  (∀ s : Word, ngDraw s false = (ruleStep s, signedTop (ruleStep s)) ∧
    ngDraw s true = (ruleStep (ruleStep s), signedTop (ruleStep s) + signedTop (ruleStep (ruleStep s)))) ∧
  (∀ s : Word, -128 ≤ (ngDraw s false).2 ∧ (ngDraw s false).2 ≤ 127 ∧ -256 ≤ (ngDraw s true).2 ∧
    (ngDraw s true).2 ≤ 254) ∧
  ∀ a : ActiveConfig, a.ampn ≤ 65535 → 0 ≤ ampnEff a ∧ ampnEff a ≤ 65535 ∧ (a.tpdfNoise = false → ampnEff a = a.ampn) ∧
    (a.tpdfNoise = true → ampnEff a = ⌊(a.ampn * 46341 : ℚ) / 65536 + 1 / 2⌋)

/-! ### Pattern store -/

/-- 42_pattern R190 with R191: PAT_READ, with and without a configuration.
With an empty latch, which no step meets, the operands are those of log 6. -/
def Obligations.PatReadShowsTheToroidalCell : Prop :=
  ∀ (s : State) (px py rot : Nat), (Instr.patRead px py rot).wellFormed = true →
    (s.cfgValid = true → ∃ t, exec (.patRead px py rot) s = .next t ∧ MemorySame s t ∧
      t = { s with patOut := t.patOut, irqStatus := s.irqStatus ||| 0x1, latch := none } ∧
      t.patOut = (patCell s.pat rot (py % s.act.side) (px % s.act.side)).signExtend 32) ∧
    (s.cfgValid = false → exec (.patRead px py rot) s = .next (failed 0x22 (reportedWord s (.patRead px py rot)) s))

/-- 42_pattern R183: the closed form of the Bayer pattern; its ranks are a permutation of 0..S²−1, for S = 4 the
canonical matrix; and row 0 of S = 8. -/
def Obligations.BayerClosedForm : Prop :=
  (∀ n y x, bayerCell n y x = ((bayerRank n y x * 256 / 4 ^ n : Nat) : Int) - 128) ∧
  (∀ n y x, bayerRank n y x < 4 ^ n) ∧
  (∀ n y x y' x', y < 2 ^ n → x < 2 ^ n → y' < 2 ^ n → x' < 2 ^ n → bayerRank n y x = bayerRank n y' x' → y = y' ∧ x = x') ∧
  (List.range 4).map (fun y => (List.range 4).map (bayerRank 2 y)) =
    [[0, 8, 2, 10], [12, 4, 14, 6], [3, 11, 1, 9], [15, 7, 13, 5]] ∧
  (List.range 4).map (fun y => (List.range 4).map (bayerCell 2 y)) =
    [[-128, 0, -96, 32], [64, -64, 96, -32], [-80, 48, -112, 16], [112, -16, 80, -48]] ∧
  (List.range 8).map (bayerCell 3 0) = [-128, 0, -96, 32, -120, 8, -88, 40] ∧
  (List.range 2).map (fun y => (List.range 2).map (bayerCell 1 y)) = [[-128, 0], [64, -64]]

/-- 42_pattern R186: the TPDF remap is the rule's formula, is odd, fixes 0, is non-decreasing on −128..127 and stays in −256..238. -/
def Obligations.TpdfRemapIsOddAndMonotone : Prop :=
  (∀ d : Int, tpdfRemap d = ruleTpdf d ∧ tpdfRemap (-d) = -tpdfRemap d) ∧ tpdfRemap 0 = 0 ∧
  (∀ d d' : Int, -128 ≤ d → d ≤ d' → d' ≤ 127 → tpdfRemap d ≤ tpdfRemap d') ∧
  (∀ d : Int, -128 ≤ d → d ≤ 127 → -256 ≤ tpdfRemap d ∧ tpdfRemap d ≤ 238) ∧ tpdfRemap (-128) = -256 ∧
  tpdfRemap 127 = 238

/-- 42_pattern R187: the rotations stay inside the matrix, variant 2 is variant 1 applied twice, and variant 3 is the
inverse of variant 1. -/
def Obligations.RotationsAreQuarterTurns : Prop :=
  ∀ side y x : Nat, y < side → x < side →
    (∀ k < 4, (rotatedCoord k side y x).1 < side ∧ (rotatedCoord k side y x).2 < side) ∧
    rotatedCoord 0 side y x = (y, x) ∧ rotatedCoord 1 side y x = (side - 1 - x, y) ∧
    rotatedCoord 2 side y x = (side - 1 - y, side - 1 - x) ∧ rotatedCoord 3 side y x = (x, side - 1 - y) ∧
    rotatedCoord 2 side y x = rotatedCoord 1 side (rotatedCoord 1 side y x).1 (rotatedCoord 1 side y x).2 ∧
    rotatedCoord 1 side (rotatedCoord 3 side y x).1 (rotatedCoord 3 side y x).2 = (y, x) ∧
    rotatedCoord 3 side (rotatedCoord 1 side y x).1 (rotatedCoord 1 side y x).2 = (y, x)

/-- 42_pattern R181 to R189, R191, R192 and 10_state R53: after a successful CONSTRUCT every toroidal read gives exactly
the cell the rules build (the mode's base pattern, the remap if TPDF_OUT = 1, then the rotation), which fits the store's signed 10 bits; without TPDF_OUT it is in −128..127, with it in −256..238; cells outside
S × S keep what they held. With an empty latch, which no step meets, the operands are those of log 6. -/
def Obligations.ConstructBuildsTheWholePattern : Prop :=
  ∀ s : State, TablesLegal s → constructError s.operands = none →
    ∃ t, exec .construct s = .next t ∧ PatternShaped t.pat ∧
      (∀ k < 4, ∀ px py : Nat,
        patval t k px py = ruleCell s.vacRank t.act k (py % t.act.side) (px % t.act.side) ∧
        -256 ≤ patval t k px py ∧ patval t k px py ≤ 238 ∧
        (t.act.tpdfOut = false → -128 ≤ patval t k px py ∧ patval t k px py ≤ 127)) ∧
      ∀ k < 4, ∀ r < 32, ∀ c < 32, t.act.side ≤ r ∨ t.act.side ≤ c → patCell t.pat k r c = patCell s.pat k r c

/-! ### Quasirandom generator -/

/-- 43_quasirandom R214 with R211: QRS_SEED, with and without a configuration.
With an empty latch, which no step meets, the operands are those of log 6. -/
def Obligations.QrsSeedLoadsTheRowPhase : Prop :=
  ∀ (s : State) (y : Nat), y < 65536 →
    (s.cfgValid = true → ∃ t, exec (.qrsSeed y) s = .next t ∧ MemorySame s t ∧
      t = { s with
        inp := { s.inp with qrsPhase := t.inp.qrsPhase }
        irqStatus := s.irqStatus ||| 0x1
        latch := none } ∧
      t.inp.qrsPhase.toNat =
        (y * 0x91E10DA6 + (if s.act.dyn = true then s.operands.jobFrame.toNat * 0x9E3779B9 else 0) +
          (if s.act.corr = false then s.operands.jobPlane.toNat % 4 * 0x55555555 else 0)) % 2 ^ 32) ∧
    (s.cfgValid = false → exec (.qrsSeed y) s = .next (failed 0x22 (reportedWord s (.qrsSeed y)) s))

/-- 43_quasirandom R215 with R212: QRS_NEXT, for every state; the output comes from the phase before the advance.
With an empty latch, which no step meets, the operands are those of log 6. -/
def Obligations.QrsNextOutputsThenAdvances : Prop :=
  ∀ s : State, ∃ t, exec .qrsNext s = .next t ∧ MemorySame s t ∧
    t = { s with
      inp := { s.inp with qrsPhase := s.operands.qrsPhase + 0xC13FA9A9 }
      qrsOut := t.qrsOut
      irqStatus := s.irqStatus ||| 0x1
      latch := none } ∧
    t.qrsOut.toInt =
      (if s.operands.qrsPhase.toNat / 2 ^ 23 < 256 then (s.operands.qrsPhase.toNat / 2 ^ 23 : Int)
        else 511 - (s.operands.qrsPhase.toNat / 2 ^ 23 : Int)) - 128

/-- 43_quasirandom R212: the fold of bits 31:23 is a triangle wave: from −128 up to 127 and back, in −128..127, symmetric about the half turn, climbing on the first
half. -/
def Obligations.QuasirandomFoldIsATriangleWave : Prop :=
  (∀ c : Word, qgValue c =
    (if c.toNat / 2 ^ 23 < 256 then ((c.toNat / 2 ^ 23 : Nat) : Int) else 511 - ((c.toNat / 2 ^ 23 : Nat) : Int)) - 128) ∧
  qgValue 0 = -128 ∧ qgValue 0x7FFFFFFF = 127 ∧ qgValue 0xFFFFFFFF = -128 ∧
  (∀ c : Word, -128 ≤ qgValue c ∧ qgValue c ≤ 127 ∧ qgValue (~~~c) = qgValue c) ∧
  ∀ c d : Word, c ≤ d → d < 0x80000000 → qgValue c ≤ qgValue d

/-! ### Error diffusion -/

/-- 44_error_diffusion R246: ED_SPLIT shows every slot amount and the discard exactly, for every 32-bit error; and its two
errors. With an empty latch, which no step meets, the operands are those of log 6. -/
def Obligations.EdSplitShowsTheExactSplit : Prop :=
  ∀ (s : State) (idx : Nat), idx < 256 →
    (∀ k, s.cfgValid = true → s.act.routine = .errdif k → ∃ t, exec (.edSplit idx) s = .next t ∧ MemorySame s t ∧
      t = { s with edSlots := t.edSlots, edDiscard := t.edDiscard, irqStatus := s.irqStatus ||| 0x1, latch := none } ∧
      (∀ n : Fin 12, (t.edSlots[n]).toInt =
        (splitError k (ostroEntry s.ostroTab idx) s.operands.edErrIn.toInt).getD n.val 0) ∧
      t.edDiscard.toInt = s.operands.edErrIn.toInt -
        (splitError k (ostroEntry s.ostroTab idx) s.operands.edErrIn.toInt).sum) ∧
    (s.cfgValid = true → (∀ k, s.act.routine ≠ .errdif k) →
      exec (.edSplit idx) s = .next (failed 0x23 (reportedWord s (.edSplit idx)) s)) ∧
    (s.cfgValid = false → exec (.edSplit idx) s = .next (failed 0x22 (reportedWord s (.edSplit idx)) s))

/-- 44_error_diffusion R244: FS, FL, ST and OS conserve the error exactly; AT sends 6·rnd(e, 8), a shortfall that differs
from 2e/8 by at most 3 and is exactly 2e/8 when 8 divides e. -/
def Obligations.SplitsConserveTheError : Prop :=
  ∀ (entry : OstroEntry) (e : Int),
    (splitError .floydSteinberg entry e).sum = e ∧ (splitError .filterLite entry e).sum = e ∧
    (splitError .stucki entry e).sum = e ∧ (splitError .ostromoukhov entry e).sum = e ∧
    (splitError .atkinson entry e).sum = 6 * ⌊(e : ℚ) / 8 + 1 / 2⌋ ∧
    |4 * splitDiscard e (splitError .atkinson entry e) - e| ≤ 12 ∧
    (8 ∣ e → 4 * splitDiscard e (splitError .atkinson entry e) = e)

/-- 44_error_diffusion R232, R237 to R241, R247: the twelve slots, each kernel's amount for every one of them, and the
bound of an amount. The forward slot of FS, FL, ST and OS takes what the others leave. Entry i of OSTRO_TAB is the
listed one (10_state R54). -/
def Obligations.SlotAmountsAreBounded : Prop :=
  slotPositions =
    [(1, 0), (2, 0), (-2, 1), (-1, 1), (0, 1), (1, 1), (2, 1), (-2, 2), (-1, 2), (0, 2), (1, 2), (2, 2)] ∧
  (∀ (tab : List OstroEntry) (i : Nat) (entry : OstroEntry), tab[i]? = some entry → ostroEntry tab i = entry) ∧
  ∀ (entry : OstroEntry) (e : Int),
    splitError .floydSteinberg entry e =
      [e - nearest (4 * e) 16 - nearest (5 * e) 16, 0, 0, nearest (4 * e) 16, nearest (5 * e) 16, 0, 0, 0, 0, 0, 0, 0] ∧
    splitError .filterLite entry e = [e - 2 * nearest e 4, 0, 0, nearest e 4, nearest e 4, 0, 0, 0, 0, 0, 0, 0] ∧
    (∀ n, 1 ≤ n → n < 12 → (splitError .stucki entry e).getD n 0 =
      nearest ([8, 4, 2, 4, 8, 4, 2, 1, 2, 4, 2, 1].getD n 0 * e) 42) ∧
    (splitError .stucki entry e).getD 0 0 =
      e - ∑ n ∈ Finset.Icc 1 11, nearest ([8, 4, 2, 4, 8, 4, 2, 1, 2, 4, 2, 1].getD n 0 * e) 42 ∧
    splitError .atkinson entry e =
      [nearest e 8, nearest e 8, 0, nearest e 8, nearest e 8, nearest e 8, 0, 0, 0, nearest e 8, 0, 0] ∧
    (∀ t : Nat, t = entry.c0.toNat + entry.c1.toNat + entry.c2.toNat → splitError .ostromoukhov entry e =
      [e - nearest (entry.c1.toNat * e) t - nearest (entry.c2.toNat * e) t, 0, 0, nearest (entry.c1.toNat * e) t,
        nearest (entry.c2.toNat * e) t, 0, 0, 0, 0, 0, 0, 0]) ∧
    ∀ k : Kernel, (splitError k entry e).length = 12 ∧ ∀ a ∈ splitError k entry e, |a| ≤ |e| + 1

/-- 44_error_diffusion R235, R245: where a pixel's amounts go. The slots with dy = 0 go into the carries; slot (dx, dy) of
a lower row is added at column x + dx on an even row and x − dx on an odd one; every other cell of the rows below, and
every cell of row y itself, is as it was (R243). The sums are those of 44_error_diffusion R247, inside 32 bits. -/
def Obligations.AmountsLandMirroredOnOddRows : Prop :=
  ∀ (depth x y : Nat) (sl : List Int) (a : Accum), (depth = 1 ∨ depth = 2) → x < 8192 → AccumShaped a → sl.length = 12 →
    (∀ v ∈ sl, -2 ^ 30 ≤ v ∧ v < 2 ^ 30) → (∀ r c, -2 ^ 30 ≤ accCell depth a r c ∧ accCell depth a r c < 2 ^ 30) →
    (-2 ^ 30 ≤ a.car1.toInt ∧ a.car1.toInt < 2 ^ 30) →
    (accDiffuse depth (rowDir y) x y sl a).car0.toInt = a.car1.toInt + sl.getD 0 0 ∧
    (accDiffuse depth (rowDir y) x y sl a).car1.toInt = sl.getD 1 0 ∧
    (∀ n, 2 ≤ n → n < 12 → ∀ dx dy, slotPositions.getD n (0, 0) = (dx, dy) → dy ≤ depth →
      accCell depth (accDiffuse depth (rowDir y) x y sl a) (y + dy) (if y % 2 = 0 then x + dx else x - dx) =
        accCell depth a (y + dy) (if y % 2 = 0 then x + dx else x - dx) + sl.getD n 0) ∧
    (∀ dy (c : Int), 1 ≤ dy → dy ≤ depth → -2 ≤ c → (c < x - 2 ∨ x + 2 < c) →
      accCell depth (accDiffuse depth (rowDir y) x y sl a) (y + dy) c = accCell depth a (y + dy) c) ∧
    ∀ c : Int, accCell depth (accDiffuse depth (rowDir y) x y sl a) y c = accCell depth a y c

/-- 44_error_diffusion R233, R236: the depth of each kernel; a row's end clears its line, margins included, and leaves the rows below; FL, AT and OS clear
the carries, FS and ST keep them. -/
def Obligations.RowEndClearsItsLine : Prop :=
  (kernelDepth .floydSteinberg = 1 ∧ kernelDepth .filterLite = 1 ∧ kernelDepth .stucki = 2 ∧
    kernelDepth .atkinson = 2 ∧ kernelDepth .ostromoukhov = 1) ∧
  ∀ (k : Kernel) (y : Nat) (a : Accum),
    (∀ c, accCell (kernelDepth k) (accRowEnd k y a) y c = 0 ∧
      accCell (kernelDepth k) (accRowEnd k y a) (y + kernelDepth k + 1) c = 0) ∧
    (∀ d c, 1 ≤ d → d ≤ kernelDepth k →
      accCell (kernelDepth k) (accRowEnd k y a) (y + d) c = accCell (kernelDepth k) a (y + d) c) ∧
    (k = .filterLite ∨ k = .atkinson ∨ k = .ostromoukhov →
      (accRowEnd k y a).car0 = 0 ∧ (accRowEnd k y a).car1 = 0) ∧
    (k = .floydSteinberg ∨ k = .stucki → (accRowEnd k y a).car0 = a.car0 ∧ (accRowEnd k y a).car1 = a.car1)

/-! ### Scaler -/

/-- 45_scale R282, R283: the Q32 gain and offset are the exact rationals rounded half up, and fit well inside 64 bits. -/
def Obligations.GainAndOffsetAreRoundedHalfUp : Prop :=
  ∀ (src dst : Format) (chroma : Bool), formatLegal src = true → formatLegal dst = true →
    gainQ32 src dst chroma = ⌊exactGain src dst chroma * 2 ^ 32 + 1 / 2⌋ ∧
    offsetQ32 src dst chroma = ⌊exactOffset src dst chroma * 2 ^ 32 + 1 / 2⌋ ∧
    |gainQ32 src dst chroma| < 2 ^ 49 ∧ |offsetQ32 src dst chroma| < 2 ^ 49

/-- 45_scale R284: GAIN_QUERY, with and without a configuration; the register pairs read as the signed 64-bit gain and
offset. With an empty latch, which no step meets, the operands are those of log 6. -/
def Obligations.GainQueryShowsGainAndOffset : Prop :=
  ∀ s : State, ActiveLegal s →
    (s.cfgValid = true → ∃ t, exec .gainQuery s = .next t ∧ MemorySame s t ∧
      t = { s with
        gainLo := t.gainLo, gainHi := t.gainHi, offLo := t.offLo, offHi := t.offHi
        irqStatus := s.irqStatus ||| 0x1
        latch := none } ∧
      ∀ chroma : Bool, (chroma = true ↔ s.act.family = .yuv ∧
          (s.operands.jobPlane.toNat % 4 = 1 ∨ s.operands.jobPlane.toNat % 4 = 2)) →
        (t.gainHi ++ t.gainLo).toInt = ⌊exactGain s.act.src s.act.dst chroma * 2 ^ 32 + 1 / 2⌋ ∧
        (t.offHi ++ t.offLo).toInt = ⌊exactOffset s.act.src s.act.dst chroma * 2 ^ 32 + 1 / 2⌋) ∧
    (s.cfgValid = false → exec .gainQuery s = .next (failed 0x22 (reportedWord s .gainQuery) s))

/-- 45_scale R286, R287, R294: work values stay in −2^47 .. 2^47 − 1; for legal integer sources the clamp never acts; a
finite float x = m · 2^−149 gives the exact x · G + O over 2^16, rounded down and clamped; and what a float word stands
for, by its sign, exponent and fraction (R285).
The binary32 layout is presumed (log 25). -/
def Obligations.WorkValuesAreBounded : Prop :=
  (∀ (src : Format) (raw : Nat) (g o : Int), -2 ^ 47 ≤ workOf src raw g o ∧ workOf src raw g o ≤ 2 ^ 47 - 1) ∧
  (∀ (src dst : Format) (chroma : Bool) (raw : Nat), formatLegal src = true → formatLegal dst = true → src.float = false →
    workOf src raw (gainQ32 src dst chroma) (offsetQ32 src dst chroma) =
      (((raw % 2 ^ src.bits : Nat) : Int) * gainQ32 src dst chroma + offsetQ32 src dst chroma) / 2 ^ 16) ∧
  (∀ (raw frac ex : Nat) (neg : Bool), frac = raw % 2 ^ 23 → ex = raw / 2 ^ 23 % 2 ^ 8 → neg = raw.testBit 31 →
    (ex = 255 → frac = 0 → floatValueOf raw = .inf neg) ∧ (ex = 255 → frac ≠ 0 → floatValueOf raw = .nan) ∧
    (ex = 0 → floatValueOf raw = .finite ((if neg = true then -1 else 1) * frac)) ∧
    (ex ≠ 0 → ex ≠ 255 →
      floatValueOf raw = .finite ((if neg = true then -1 else 1) * ((2 ^ 23 + frac) * 2 ^ (ex - 1))))) ∧
  ∀ (raw : Nat) (src : Format) (g o : Int), src.float = true →
    (∀ m, floatValueOf raw = .finite m →
      workOf src raw g o = min (max ⌊((m : ℚ) / 2 ^ 149 * g + o) / 2 ^ 16⌋ (-2 ^ 47)) (2 ^ 47 - 1)) ∧
    (floatValueOf raw = .inf false → workOf src raw g o = 2 ^ 47 - 1) ∧
    (floatValueOf raw = .inf true → workOf src raw g o = -2 ^ 47) ∧
    (floatValueOf raw = .nan → |o| < 2 ^ 49 → workOf src raw g o = o / 2 ^ 16)

/-- 45_scale R291: the quantizer rounds half up, its error is in −2^15 .. 2^15 − 1 and is taken before the clamp. -/
def Obligations.QuantizerRoundsHalfUp : Prop :=
  ∀ (t : Int) (bd : Nat),
    quantize t bd = (min (max ⌊(t : ℚ) / 65536 + 1 / 2⌋ 0) (2 ^ bd - 1), t - ⌊(t : ℚ) / 65536 + 1 / 2⌋ * 65536) ∧
    -2 ^ 15 ≤ (quantize t bd).2 ∧ (quantize t bd).2 ≤ 2 ^ 15 - 1 ∧ 0 ≤ (quantize t bd).1 ∧ (quantize t bd).1 ≤ 2 ^ bd - 1

/-- 45_scale R289: `RNE_f32` of n/2^32 is the nearest finite binary32 value, with an even significand where two are
equally near, and never a subnormal, an infinity or a NaN. A finite value is m · 2^−149, so n/2^32 is n · 2^117 of
those units. 0 is +0. The binary32 layout is presumed (log 25). -/
def Obligations.RoundToFloatIsNearestEven : Prop :=
  roundToFloat 0 = 0 ∧ ∀ n : Int, n ≠ 0 → |n| < 2 ^ 64 → roundToFloat n < 2 ^ 32 ∧
    1 ≤ roundToFloat n / 2 ^ 23 % 2 ^ 8 ∧ roundToFloat n / 2 ^ 23 % 2 ^ 8 ≤ 254 ∧
    ∃ m, floatValueOf (roundToFloat n) = .finite m ∧
      ∀ w m', w < 2 ^ 32 → floatValueOf w = .finite m' →
        |m - n * 2 ^ 117| ≤ |m' - n * 2 ^ 117| ∧
        (|m - n * 2 ^ 117| = |m' - n * 2 ^ 117| → m' ≠ m → roundToFloat n % 2 = 0)

/-! ### Control commands -/

/-- 46_engine R314: NOP, for every state. -/
def Obligations.NopOnlySetsDone : Prop :=
  ∀ s : State, ∃ t, exec .nop s = .next t ∧ MemorySame s t ∧
    t = { s with irqStatus := s.irqStatus ||| 0x1, latch := none }

/-- 46_engine R312, R313, 10_state R39 to R42, 30_encoding R117: CONSTRUCT reports the first check that fails and changes nothing else, or commits the whole
configuration. With an empty latch, which no step meets, the operands are those of log 6. -/
def Obligations.ConstructIsAllOrNothing : Prop :=
  ∀ s : State,
    (∀ code, constructError s.operands = some code → exec .construct s = .next (failed code 0 s)) ∧
    (constructError s.operands = none → ∃ t, exec .construct s = .next t ∧ MemorySame s t ∧
      t = { s with cfgValid := true, act := t.act, pat := t.pat, irqStatus := s.irqStatus ||| 0x1, latch := none } ∧
      t.act.src = ruleFormat s.operands.cfgSrcFmt ∧ t.act.dst = ruleFormat s.operands.cfgDstFmt ∧
      t.act.side = s.operands.cfgMode.toNat / 2 ^ 8 % 64 ∧
      modesByNumber[s.operands.cfgMode.toNat % 16]? = some t.act.mode ∧
      t.act.dyn = s.operands.cfgMode.getLsbD 16 ∧ t.act.static = s.operands.cfgMode.getLsbD 17 ∧
      t.act.corr = s.operands.cfgMode.getLsbD 18 ∧ t.act.tpdfOut = s.operands.cfgMode.getLsbD 19 ∧
      t.act.tpdfNoise = s.operands.cfgMode.getLsbD 20 ∧
      familiesByNumber[s.operands.cfgPlanes.toNat % 4]? = some t.act.family ∧
      t.act.count = s.operands.cfgPlanes.toNat / 2 ^ 4 % 8 ∧ (t.act.ampo : Int) = s.operands.cfgAmpo.toInt ∧
      (t.act.ampn : Int) = s.operands.cfgAmpn.toInt ∧
      t.act.routine = routineFor (ruleFormat s.operands.cfgSrcFmt) (ruleFormat s.operands.cfgDstFmt)
        (s.operands.cfgMode.toNat % 16))

/-- 46_engine R330, 10_state R52, R54: only CONSTRUCT, SOFT_RESET and the reset input change the configuration or the
pattern store, in a step of their own, and CONSTRUCT changes it to a valid one; nothing changes the tables. Which of
HOST and SEQ moves is log 1. -/
def Obligations.ConfigurationChangesOnlyByCommand : Prop :=
  ∀ s t : State, step s = .next t →
    t.vacRank = s.vacRank ∧ t.ostroTab = s.ostroTab ∧
    (ConfigSame s t ∨
      (¬ HostActs s ∧ ∃ l, s.latch = some l ∧ decode l.word = .command .construct ∧ t.cfgValid = true) ∨
      (¬ HostActs s ∧ ∃ l, s.latch = some l ∧ decode l.word = .command .softReset ∧ t.cfgValid = false) ∨
      (HostActs s ∧ ∃ n rest, s.host = .hardReset n :: rest ∧ t.cfgValid = false))

/-! ### Jobs -/

/-- 46_engine R316, 60_exceptions R361, R365: PROCESS_PLANE's checks in their order: each failing one is reported with
nothing else changed, and past them a plane of width or height 0 completes with no access and no register change.
With an empty latch, which no step meets, the operands are those of log 6. -/
def Obligations.ProcessPlaneChecksInOrder : Prop :=
  ∀ (s : State) (j : JobLatch), j = jobOf s.operands →
    (s.cfgValid = false → exec .processPlane s = .next (failed 0x22 (reportedWord s .processPlane) s)) ∧
    (s.cfgValid = true → s.act.count ≤ j.plane → exec .processPlane s = .next (failed 0x11 0 s)) ∧
    (s.cfgValid = true → j.plane < s.act.count →
      ((∃ k, s.act.routine = .errdif k) ∧ 8192 < j.width → exec .processPlane s = .next (failed 0x10 0 s)) ∧
      (¬ ((∃ k, s.act.routine = .errdif k) ∧ 8192 < j.width) →
        (¬ JobAligned s j → exec .processPlane s = .next (failed 0x12 0 s)) ∧
        (JobAligned s j → j.width = 0 ∨ j.height = 0 →
          exec .processPlane s = .next { s with irqStatus := s.irqStatus ||| 0x1, latch := none })))

/-- 20_memory R84, R85, R95 and R88, 10_state R43 to R45: the job the registers hold, its two planes, the container
sizes, the address of a sample (base + y · stride + x · size modulo 2^32, the stride signed), and the bytes of a plane,
which are those of its samples; and a job that passes its checks is refused when its planes share a byte, unless it is
the in-place COPY, and else when a plane lies on a device region (log 15, 16, 30). -/
def Obligations.OverlappingJobsAreRefused : Prop :=
  (∀ r : InputRegs, jobOf r = ruleJob r) ∧
  (∀ f : Format, (f.float = false → f.bits = 8 → containerSize f = 1) ∧
    (f.float = false → 9 ≤ f.bits → f.bits ≤ 16 → containerSize f = 2) ∧ (f.float = true → containerSize f = 4)) ∧
  (∀ (act : ActiveConfig) (j : JobLatch),
    sourcePlane act j =
      { base := j.srcBase, stride := j.srcStride, size := containerSize act.src, width := j.width, height := j.height } ∧
    destPlane act j =
      { base := j.dstBase, stride := j.dstStride, size := containerSize act.dst, width := j.width, height := j.height }) ∧
  (∀ (p : Plane) (x y : Nat), ((p.addr x y).toNat : Int) =
    ((p.base.toNat : Int) + y * p.stride.toInt + x * p.size) % 2 ^ 32) ∧
  (∀ (a b : Word) (n : Nat), inSpan a.toNat n b.toNat = true ↔ ∃ i < n, b = a + BitVec.ofNat 32 i) ∧
  (∀ (p : Plane) (a : Word), p.width < 65536 → p.size ≤ 4 →
    (p.holds a = true ↔ ∃ x < p.width, ∃ y < p.height, ∃ i < p.size, a = p.addr x y + BitVec.ofNat 32 i)) ∧
  (∀ (p : Plane) (devices : List (Nat × Nat)), p.width < 65536 → p.size ≤ 4 →
    (p.onDevice devices = true ↔
      ∃ d ∈ devices, ∃ a : Word, p.holds a = true ∧ ∃ i < d.2, a = BitVec.ofNat 32 (d.1 + i))) ∧
  ∀ (s : State) (j : JobLatch), JobPassesChecks s j →
    (exec .processPlane s = .refused .planesOverlap ↔
      SharesByte (sourcePlane s.act j) (destPlane s.act j) ∧
        ¬ (s.act.routine = .copy ∧ j.srcBase = j.dstBase ∧ j.srcStride = j.dstStride)) ∧
    (exec .processPlane s = .refused .planeOnDevice ↔
      exec .processPlane s ≠ .refused .planesOverlap ∧
        ((sourcePlane s.act j).onDevice s.devices = true ∨ (destPlane s.act j).onDevice s.devices = true))

/-- PROCESS_PLANE completes: an accepted job that no access fails runs to its end, with DONE set; it changes no byte
outside the destination plane, and no register but those of 46_engine R319 (46_engine R311, R316, R319; 20_memory
R87). That no access fails is an empty `busFail` (log 8). -/
def Obligations.AcceptedJobsComplete : Prop :=
  ∀ (s : State) (j : JobLatch), JobAccepted s j → s.busFail = [] →
    ∃ t, exec .processPlane s = .next t ∧ t.latch = none ∧ t.irqStatus = s.irqStatus ||| 0x1 ∧
      MemorySameOutside (destPlane s.act j) s t ∧ ConfigSame s t ∧ OutsideSame s t ∧ DiagnosticsSame s t ∧
      t.inp = { s.inp with rngState := t.inp.rngState } ∧ t.irqEn = s.irqEn ∧ t.errCode = s.errCode ∧
      t.errInfo = s.errInfo ∧ t.busFail = [] ∧ t.free = s.free

/-- 46_engine R319, 41_noise R170: after a job that draws noise RNG_STATE is the state after the last row's `eol`, whatever
the samples are; COPY, SHIFT and FLOAT_OUT leave it; the gain registers show the job's gain for every routine but COPY
and SHIFT. That no access fails is an empty `busFail` (log 8). -/
def Obligations.JobLeavesNoiseStateAndGain : Prop :=
  ∀ (s t : State) (j : JobLatch), JobAccepted s j → s.busFail = [] → exec .processPlane s = .next t →
    (s.act.routine = .copy ∨ s.act.routine = .shift → t.inp.rngState = s.inp.rngState ∧ GainSame s t) ∧
    (s.act.routine = .floatOut → t.inp.rngState = s.inp.rngState) ∧
    (s.act.routine = .ordered ∨ s.act.routine = .qrs ∨ (∃ k, s.act.routine = .errdif k) →
      t.inp.rngState = streamAt s.act j 0 j.height) ∧
    (s.act.routine ≠ .copy → s.act.routine ≠ .shift →
      t.gainHi ++ t.gainLo = BitVec.ofInt 64 (jobGain s.act j) ∧ t.offHi ++ t.offLo = BitVec.ofInt 64 (jobOffset s.act j))

/-- 46_engine R322, R329, 45_scale R290: COPY writes each source container to its destination, whatever it holds; where
destination rows overlap, the last one wins (46_engine R316). That no access fails is an empty `busFail` (log 8). -/
def Obligations.CopyJobCopiesContainers : Prop :=
  ∀ (s t : State) (j : JobLatch), JobAccepted s j → s.busFail = [] → Memory.wf s.mem = true → ConfigLegal s.act →
    s.act.routine = .copy → exec .processPlane s = .next t →
    ∀ x < j.width, ∀ y < j.height, LastWritten (destPlane s.act j) x y →
      destSample s t j x y = sourceSample s j x y

/-- 20_memory R95, 46_engine R322: the in-place COPY leaves plane memory as it was. That no access fails is an empty
`busFail` (log 8). -/
def Obligations.InPlaceCopyLeavesMemory : Prop :=
  ∀ (s t : State) (j : JobLatch), JobAccepted s j → s.busFail = [] → Memory.wf s.mem = true → s.act.routine = .copy →
    containerSize s.act.src = containerSize s.act.dst → j.srcBase = j.dstBase → j.srcStride = j.dstStride →
    exec .processPlane s = .next t → t.mem = s.mem ∧ MemorySame s t

/-- 46_engine R323, 45_scale R288: SHIFT writes each masked sample shifted to the destination depth; where
destination rows overlap, the last one wins (46_engine R316). That no access fails is an empty `busFail` (log 8). -/
def Obligations.ShiftJobShiftsSamples : Prop :=
  ∀ (s t : State) (j : JobLatch), JobAccepted s j → s.busFail = [] → Memory.wf s.mem = true → ConfigLegal s.act →
    s.act.routine = .shift → exec .processPlane s = .next t →
    ∀ x < j.width, ∀ y < j.height, LastWritten (destPlane s.act j) x y →
      destSample s t j x y =
        if s.act.src.bits ≤ s.act.dst.bits then
          sourceSample s j x y % 2 ^ s.act.src.bits * 2 ^ (s.act.dst.bits - s.act.src.bits)
        else sourceSample s j x y % 2 ^ s.act.src.bits / 2 ^ (s.act.src.bits - s.act.dst.bits)

/-- 46_engine R324, 45_scale R289: FLOAT_OUT writes each scaled sample rounded to binary32; where destination rows
overlap, the last one wins (46_engine R316). That no access fails is an empty `busFail` (log 8). The binary32 layout is
presumed (log 25). -/
def Obligations.FloatOutJobRoundsSamples : Prop :=
  ∀ (s t : State) (j : JobLatch), JobAccepted s j → s.busFail = [] → Memory.wf s.mem = true → ConfigLegal s.act →
    s.act.routine = .floatOut → exec .processPlane s = .next t →
    ∀ x < j.width, ∀ y < j.height, LastWritten (destPlane s.act j) x y →
      destSample s t j x y =
        roundToFloat (((sourceSample s j x y % 2 ^ s.act.src.bits : Nat) : Int) * jobGain s.act j + jobOffset s.act j)

/-- 46_engine R325, 45_scale R292: ORDERED writes the quantized sum of work value, pattern term and noise term; where
destination rows overlap, the last one wins (46_engine R316). That no access fails is an empty `busFail` (log 8). -/
def Obligations.OrderedJobDithersSamples : Prop :=
  ∀ (s t : State) (j : JobLatch), JobAccepted s j → s.busFail = [] → Memory.wf s.mem = true → ConfigLegal s.act →
    s.act.routine = .ordered → exec .processPlane s = .next t →
    ∀ x < j.width, ∀ y < j.height, LastWritten (destPlane s.act j) x y →
      (destSample s t j x y : Int) =
        (quantize (workOf s.act.src (sourceSample s j x y) (jobGain s.act j) (jobOffset s.act j) +
          patval s (if s.act.dyn = true then j.frame.toNat % 4 else 0) x y * s.act.ampo + noiseTerm s.act j x y)
          s.act.dst.bits).1

/-- 46_engine R326, 43_quasirandom R213: QRS writes the quantized sum of work value, quasirandom term and noise term; pixel
(x, y) reads the counter qseed(y) + x · A1; where destination rows overlap, the last one wins (46_engine R316). That no
access fails is an empty `busFail` (log 8). -/
def Obligations.QuasirandomJobDithersSamples : Prop :=
  ∀ (s t : State) (j : JobLatch), JobAccepted s j → s.busFail = [] → Memory.wf s.mem = true → ConfigLegal s.act →
    s.act.routine = .qrs → exec .processPlane s = .next t →
    ∀ x < j.width, ∀ y < j.height, LastWritten (destPlane s.act j) x y →
      (destSample s t j x y : Int) =
        (quantize (workOf s.act.src (sourceSample s j x y) (jobGain s.act j) (jobOffset s.act j) +
          (if s.act.tpdfOut = true then 2 else 1) *
            qgValue (qgSeed y j.frame j.plane s.act.dyn s.act.corr + BitVec.ofNat 32 x * 0xC13FA9A9) * s.act.ampo +
          noiseTerm s.act j x y) s.act.dst.bits).1

/-- 44_error_diffusion R231, R242, R243, 46_engine R318, R320, R327: the OS table index; one pixel of ERRDIF whose two
accesses succeed; and the whole ERRDIF job: from cleared lines and carries, row by row in the serpentine order, each row
end before the next row, every sample is the quantized sum of its pixel (where destination rows overlap, the last one
wins) and RNG_STATE the noise state after the last row. At every point of the job the error diffused, the slot amounts,
the cells and the carries are within the bounds of R247, so that no 32-bit cell or carry wraps: they are inside the
premises under which the additions are exact (O35). That no access fails is an empty `busFail` (log 8); the binary32
layout behind a float's index is presumed (log 25). -/
def Obligations.ErrorDiffusionPixelFollowsItsRule : Prop :=
  (∀ (src : Format) (raw : Nat), IsTableIndex src raw (ostroIndex src raw)) ∧
  (∀ (s : State) (j : JobLatch) (k : Kernel) (y n : Nat) (p : Accum × Word), ConfigLegal s.act → j.width ≤ 8192 →
    n ≤ j.width → p = edAlong s j k y n (edRowStart s j k y) →
    AccumShaped p.1 ∧ (∀ r c, |accCell (kernelDepth k) p.1 r c| < 2 ^ 27) ∧
    |p.1.car0.toInt| ≤ 2 * (2 ^ 23 + 1) ∧ |p.1.car1.toInt| ≤ 2 ^ 23 + 1 ∧
    ∀ (x : Nat) (e_in : Int), e_in = nearest ((quantize (edSum s j k y x p) s.act.dst.bits).2 * s.act.ampo) 256 →
      |e_in| ≤ 2 ^ 23 ∧ ∀ entry, ∀ v ∈ splitError k entry e_in, |v| ≤ 2 ^ 23 + 1) ∧
  (∀ (s : State) (k : Kernel) (x y : Nat) (r : Run), s.act.routine = .errdif k → r.busFail = [] →
    ∃ r' T q e e_in, pixelStep s x y r = .ok r' ∧
      T = workOf s.act.src (memRead r.mem ((sourcePlane s.act r.work.j).addr x y) (containerSize s.act.src)) r.work.g
          r.work.o + accCell (kernelDepth k) r.acc y x + r.acc.car0.toInt +
          (ngDraw r.work.ns s.act.tpdfNoise).2 * ampnEff s.act ∧
      T = q * 2 ^ 16 + e ∧ -2 ^ 15 ≤ e ∧ e < 2 ^ 15 ∧
      e_in = ⌊(e * s.act.ampo : ℚ) / 256 + 1 / 2⌋ ∧
      r'.mem = memWrite r.mem ((destPlane s.act r.work.j).addr x y) (containerSize s.act.dst)
        (clamp q 0 (2 ^ s.act.dst.bits - 1)).toNat ∧
      r'.acc = accDiffuse (kernelDepth k) r.work.dir x y
        (splitError k (ostroEntry s.ostroTab (ostroIndex s.act.src
          (memRead r.mem ((sourcePlane s.act r.work.j).addr x y) (containerSize s.act.src)))) e_in) r.acc ∧
      r'.work = { r.work with y := y, x := x, ns := (ngDraw r.work.ns s.act.tpdfNoise).1 }) ∧
  ∀ (s t : State) (j : JobLatch) (k : Kernel), JobAccepted s j → s.busFail = [] → Memory.wf s.mem = true →
    ConfigLegal s.act → s.act.routine = .errdif k → exec .processPlane s = .next t →
    t.inp.rngState = (edRowStart s j k j.height).2 ∧
    ∀ n < j.width, ∀ y < j.height, LastWritten (destPlane s.act j) (edColumn j.width y n) y →
      (destSample s t j (edColumn j.width y n) y : Int) =
        (quantize (edSum s j k y (edColumn j.width y n) (edAlong s j k y n (edRowStart s j k y))) s.act.dst.bits).1

/-- 46_engine R328, R331: two jobs that agree on the configuration, the pattern store, the tables, WIDTH, HEIGHT, FRAME,
PLANE and the source samples write the same destination samples and leave the same noise state and gain, whatever the
addresses, the rest of memory, the accumulator and the registers were. The configuration is a legal one, as the
invariant has it (R312). That no access fails is an empty `busFail` (log 8). -/
def Obligations.JobsAreDeterministic : Prop :=
  ∀ (s s' : State) (j j' : JobLatch), JobAccepted s j → JobAccepted s' j' → s.busFail = [] → s'.busFail = [] →
    Memory.wf s.mem = true → Memory.wf s'.mem = true → ConfigLegal s.act → s'.act = s.act → s'.pat = s.pat → s'.ostroTab = s.ostroTab →
    j'.width = j.width → j'.height = j.height → j'.frame = j.frame → j'.plane = j.plane →
    (∀ x < j.width, ∀ y < j.height, sourceSample s' j' x y = sourceSample s j x y) →
    ∃ t t', exec .processPlane s = .next t ∧ exec .processPlane s' = .next t' ∧
      (∀ x < j.width, ∀ y < j.height, LastWritten (destPlane s.act j) x y → LastWritten (destPlane s.act j') x y →
        destSample s' t' j' x y = destSample s t j x y) ∧
      (s.act.routine = .ordered ∨ s.act.routine = .qrs ∨ (∃ k, s.act.routine = .errdif k) →
        t'.inp.rngState = t.inp.rngState) ∧
      (s.act.routine ≠ .copy → s.act.routine ≠ .shift →
        t'.gainLo = t.gainLo ∧ t'.gainHi = t.gainHi ∧ t'.offLo = t.offLo ∧ t'.offHi = t.offHi)

/-- 20_memory R87, R89, 60_exceptions R367, R369: a job makes exactly two accesses a pixel, in the pixel order; the first
one that fails ends it with BUS_ERROR and the address of its sample, no end-of-job register written, no byte outside the
destination changed, and each destination sample at its old value or at the one the job computes for it. `busFail`,
which says when an access fails, is the model's own (log 8); which samples landed is free (log 9). -/
def Obligations.FirstFailingAccessEndsTheJob : Prop :=
  ∀ (s : State) (j : JobLatch) (k : Nat) (rest : List Nat), JobAccepted s j → s.busFail = k :: rest →
    (2 * j.width * j.height ≤ k → ∃ t, exec .processPlane s = .next t ∧
      t.busFail = (k - 2 * j.width * j.height) :: rest ∧ t.irqStatus = s.irqStatus ||| 0x1 ∧ t.errCode = s.errCode) ∧
    (k < 2 * j.width * j.height → ∃ t y x, exec .processPlane s = .next t ∧ y = k / 2 / j.width ∧
      x = (if usesAccumulator s.act.routine = true ∧ y % 2 = 1 then j.width - 1 - k / 2 % j.width
        else k / 2 % j.width) ∧
      t.errInfo = (if k % 2 = 0 then (sourcePlane s.act j).addr x y else (destPlane s.act j).addr x y) ∧
      t.errCode = 0x13 ∧ t.irqStatus = s.irqStatus ||| 0x2 ∧ t.latch = none ∧ t.busFail = rest ∧ t.inp = s.inp ∧
      GainSame s t ∧ DiagnosticsSame s t ∧ ConfigSame s t ∧ OutsideSame s t ∧
      MemorySameOutside (destPlane s.act j) s t) ∧
    (k < 2 * j.width * j.height → Memory.wf s.mem = true → SamplesApart (destPlane s.act j) →
      ∃ t u, exec .processPlane s = .next t ∧ exec .processPlane { s with busFail := [] } = .next u ∧
        ∀ x < j.width, ∀ y < j.height,
          destSample s t j x y = destSample s s j x y ∨ destSample s t j x y = destSample s u j x y)

/-- 20_memory R80, R94: HOST's accesses to plane memory. A write sets its byte and no other. With no job that runs (an
empty latch, another command, a job its checks turn away) a write is done and a read gives the byte in memory. While a
job runs a write to its planes is refused and any other is done; a read of the destination gives the old byte or the
job's, as the operation says (log 18). The job's byte is the one a job that no access fails leaves (an empty `busFail`,
log 8); while accesses may fail it is that one or the old one. While the latched job is one the model refuses, writes
are done, and a read that asks for the old byte, or is outside the destination, gives the byte in memory (log 17, 18). -/
def Obligations.HostAccessesMeetTheRunningJob : Prop :=
  (∀ (m : Memory) (a : Word) (b : Byte), Memory.wf m = true →
    ∀ c : Word, memByte (memSetByte m a b) c = if c = a then b else memByte m c) ∧
  ∀ (s : State) (j : JobLatch) (a : Word) (b : Byte), j = jobOf s.operands →
    ((∀ l, s.latch = some l → decode l.word = .command .processPlane → ¬ JobPassesChecks s j) →
      hostOperation (.memWrite a b) s = .next { s with mem := memSetByte s.mem a b } ∧
      ∀ fresh, hostOperation (.memRead a fresh) s = .next { s with hostData := (memByte s.mem a).setWidth 32 }) ∧
    (∀ l, s.latch = some l → decode l.word = .command .processPlane → JobAccepted s j →
      ((sourcePlane s.act j).holds a = true ∨ (destPlane s.act j).holds a = true →
        hostOperation (.memWrite a b) s = .refused .hostWritesRunningPlane) ∧
      ((sourcePlane s.act j).holds a = false → (destPlane s.act j).holds a = false →
        hostOperation (.memWrite a b) s = .next { s with mem := memSetByte s.mem a b }) ∧
      hostOperation (.memRead a false) s = .next { s with hostData := (memByte s.mem a).setWidth 32 } ∧
      (∀ t, s.busFail = [] → exec .processPlane s = .next t →
        hostOperation (.memRead a true) s = .next { s with hostData := (memByte t.mem a).setWidth 32 }) ∧
      (∀ u, Memory.wf s.mem = true → SamplesApart (destPlane s.act j) →
        exec .processPlane { s with busFail := [] } = .next u →
        ∃ v, hostOperation (.memRead a true) s = .next { s with hostData := v.setWidth 32 } ∧
          (v = memByte s.mem a ∨ v = memByte u.mem a))) ∧
    ∀ l r, s.latch = some l → decode l.word = .command .processPlane → exec .processPlane s = .refused r →
      hostOperation (.memWrite a b) s = .next { s with mem := memSetByte s.mem a b } ∧
      ∀ fresh, fresh = false ∨ (destPlane s.act j).holds a = false →
        hostOperation (.memRead a fresh) s = .next { s with hostData := (memByte s.mem a).setWidth 32 }

/-! ### The invariant -/

/-- Every step keeps the invariant: canonical memory, clear reserved bits, a listed error code, a latch that decodes, a
legal configuration, legal tables, a pattern store and an accumulator in shape.
Canonical memory is the form of log 7. -/
def Obligations.EveryStepKeepsTheInvariant : Prop :=
  ∀ s t : State, Inv s → step s = .next t → Inv t

/-- The invariant holds after reset. What 10_state R59 leaves unspecified has the values of log 12. -/
def Obligations.InvariantHoldsAfterReset : Prop := Inv State.reset
end

