-- ==== Sys2Proof/Laws/Ops.lean ====
section
/-! SUPPORT. What the shared operations of Machine/Ops.lean do: reading after writing in a store of cells, the canonical
form that every write keeps, the bytes a plane-memory write touches, spans of bytes, and the arithmetic primitives. -/

namespace Sys2Proof.Machine

/-! ### Stores of cells -/

section Cells

variable {α : Type} [DecidableEq α] {d : α}

/-- A canonical form from a higher key on is one from a lower key on. -/
theorem cellsWf_mono {hi lo lo' : Nat} {m : List (Nat × α)} (h : cellsWf d hi lo m = true) (hl : lo' ≤ lo) :
    cellsWf d hi lo' m = true := by
  cases m with
  | nil => rfl
  | cons p t =>
    obtain ⟨k, v⟩ := p
    simp only [cellsWf, Bool.and_eq_true, decide_eq_true_eq] at h ⊢
    exact ⟨⟨⟨by omega, h.1.1.2⟩, h.1.2⟩, h.2⟩

/-- Below its first key a canonical store reads as the default. -/
theorem cellGet_below {hi lo k : Nat} {m : List (Nat × α)} (h : cellsWf d hi lo m = true) (hk : k < lo) :
    cellGet d k m = d := by
  induction m generalizing lo with
  | nil => rfl
  | cons p t ih =>
    obtain ⟨j, v⟩ := p
    simp only [cellsWf, Bool.and_eq_true, decide_eq_true_eq] at h
    have hj : j ≠ k := by omega
    simp only [cellGet, if_neg hj]
    exact ih h.2 (by omega)

/-- Reading a written key gives the value written. -/
theorem cellGet_cellSet_self {hi lo : Nat} (k : Nat) (v : α) {m : List (Nat × α)} (h : cellsWf d hi lo m = true) :
    cellGet d k (cellSet d k v m) = v := by
  induction m generalizing lo with
  | nil => by_cases hv : v = d <;> simp [cellSet, cellGet, hv]
  | cons p t ih =>
    obtain ⟨j, w⟩ := p
    simp only [cellsWf, Bool.and_eq_true, decide_eq_true_eq] at h
    by_cases h1 : k < j
    · by_cases hv : v = d
      · simp only [cellSet, if_pos h1, if_pos hv, cellGet, if_neg (by omega : ¬ j = k)]
        rw [hv]
        exact cellGet_below h.2 (by omega)
      · simp [cellSet, h1, hv, cellGet]
    · by_cases h2 : k = j
      · subst h2
        by_cases hv : v = d
        · simp only [cellSet, if_neg h1, if_pos hv, if_true]
          rw [hv]
          exact cellGet_below h.2 (by omega)
        · simp [cellSet, hv, cellGet]
      · simp only [cellSet, if_neg h1, if_neg h2, cellGet, if_neg (Ne.symm h2)]
        exact ih h.2

/-- Reading another key is unchanged by a write. -/
theorem cellGet_cellSet_ne {k k' : Nat} (v : α) (m : List (Nat × α)) (h : k' ≠ k) :
    cellGet d k' (cellSet d k v m) = cellGet d k' m := by
  induction m with
  | nil => by_cases hv : v = d <;> simp [cellSet, cellGet, hv, Ne.symm h]
  | cons p t ih =>
    obtain ⟨j, w⟩ := p
    by_cases h1 : k < j
    · by_cases hv : v = d <;> simp [cellSet, h1, hv, cellGet, Ne.symm h]
    · by_cases h2 : k = j
      · subst h2
        by_cases hv : v = d <;> simp [cellSet, hv, cellGet, Ne.symm h]
      · simp only [cellSet, if_neg h1, if_neg h2, cellGet, ih]

/-- A write keeps the canonical form. -/
theorem cellsWf_cellSet {hi lo k : Nat} (v : α) {m : List (Nat × α)} (h : cellsWf d hi lo m = true) (hlo : lo ≤ k)
    (hhi : k < hi) : cellsWf d hi lo (cellSet d k v m) = true := by
  induction m generalizing lo with
  | nil => by_cases hv : v = d <;> simp [cellSet, cellsWf, hv, hlo, hhi]
  | cons p t ih =>
    obtain ⟨j, w⟩ := p
    have h' := h
    simp only [cellsWf, Bool.and_eq_true, decide_eq_true_eq] at h
    by_cases h1 : k < j
    · by_cases hv : v = d
      · simpa only [cellSet, if_pos h1, if_pos hv] using h'
      · simp only [cellSet, if_pos h1, if_neg hv, cellsWf, Bool.and_eq_true, decide_eq_true_eq]
        exact ⟨⟨⟨hlo, hhi⟩, hv⟩, ⟨⟨by omega, h.1.1.2⟩, h.1.2⟩, h.2⟩
    · by_cases h2 : k = j
      · subst h2
        by_cases hv : v = d
        · simp only [cellSet, if_neg h1, if_pos hv, if_true]
          exact cellsWf_mono h.2 (by omega)
        · simp only [cellSet, if_neg h1, if_neg hv, if_true, cellsWf, Bool.and_eq_true, decide_eq_true_eq]
          exact ⟨⟨⟨hlo, hhi⟩, hv⟩, h.2⟩
      · simp only [cellSet, if_neg h1, if_neg h2, cellsWf, Bool.and_eq_true, decide_eq_true_eq]
        exact ⟨h.1, ih h.2 (by omega)⟩

/-- A store made key by key is canonical. -/
theorem cellsWf_cellsOf {hi : Nat} (f : Nat → α) {n : Nat} (h : n ≤ hi) : cellsWf d hi 0 (cellsOf d f n) = true := by
  induction n with
  | zero => rfl
  | succ n ih => exact cellsWf_cellSet _ (ih (by omega)) (by omega) (by omega)

/-- Canonical stores that read alike are equal. -/
theorem cells_ext {hi lo : Nat} {m n : List (Nat × α)} (hm : cellsWf d hi lo m = true) (hn : cellsWf d hi lo n = true)
    (h : ∀ k, cellGet d k m = cellGet d k n) : m = n := by
  induction m generalizing lo n with
  | nil =>
    cases n with
    | nil => rfl
    | cons q t =>
      obtain ⟨j, v⟩ := q
      simp only [cellsWf, Bool.and_eq_true, decide_eq_true_eq] at hn
      exact absurd (h j).symm (by simpa [cellGet] using hn.1.2)
  | cons p t ih =>
    obtain ⟨k, v⟩ := p
    have hm' := hm
    simp only [cellsWf, Bool.and_eq_true, decide_eq_true_eq] at hm
    cases n with
    | nil => exact absurd (h k) (by simpa [cellGet] using hm.1.2)
    | cons q u =>
      obtain ⟨j, w⟩ := q
      have hn' := hn
      simp only [cellsWf, Bool.and_eq_true, decide_eq_true_eq] at hn
      have hkj : k = j := by
        rcases Nat.lt_trichotomy k j with hlt | heq | hgt
        · have h1 := h k
          rw [cellGet, if_pos rfl] at h1
          have h2 : cellGet d k ((j, w) :: u) = d := by
            simp only [cellGet, if_neg (by omega : ¬ j = k)]
            exact cellGet_below hn.2 (by omega)
          exact absurd (h1.trans h2) hm.1.2
        · exact heq
        · have h1 := h j
          have h2 : cellGet d j ((k, v) :: t) = d := by
            simp only [cellGet, if_neg (by omega : ¬ k = j)]
            exact cellGet_below hm.2 (by omega)
          rw [h2] at h1
          exact absurd h1.symm (by simpa [cellGet] using hn.1.2)
      subst hkj
      have hv : v = w := by simpa [cellGet] using h k
      subst hv
      have ht : t = u := by
        refine ih hm.2 hn.2 (fun i => ?_)
        by_cases hi' : k = i
        · subst hi'
          rw [cellGet_below hm.2 (by omega), cellGet_below hn.2 (by omega)]
        · simpa [cellGet, hi'] using h i
      rw [ht]

end Cells

/-! ### Plane memory -/

/-- Reading a written byte gives the byte written. -/
theorem memByte_memSetByte_self {m : Memory} (a : Word) (b : Byte) (h : Memory.wf m = true) :
    memByte (memSetByte m a b) a = b :=
  cellGet_cellSet_self _ _ h

/-- A byte write leaves every other byte alone. -/
theorem memByte_memSetByte_ne {a a' : Word} (m : Memory) (b : Byte) (h : a' ≠ a) :
    memByte (memSetByte m a b) a' = memByte m a' :=
  cellGet_cellSet_ne _ _ (fun e => h (BitVec.eq_of_toNat_eq e))

/-- A byte write keeps plane memory canonical. -/
theorem memSetByte_wf {m : Memory} (a : Word) (b : Byte) (h : Memory.wf m = true) :
    Memory.wf (memSetByte m a b) = true :=
  cellsWf_cellSet _ h (by omega) a.isLt

/-- `MemWrite` keeps plane memory canonical. -/
theorem memWrite_wf {m : Memory} (a : Word) (n v : Nat) (h : Memory.wf m = true) :
    Memory.wf (memWrite m a n v) = true := by
  induction n generalizing m a v with
  | zero => exact h
  | succ n ih => exact ih (a + 1) (v / 256) (memSetByte_wf a _ h)

/-- A byte of a span is one of the addresses from its start on. -/
theorem inSpan_iff {start n a : Nat} (hs : start < 2 ^ 32) (ha : a < 2 ^ 32) :
    inSpan start n a = true ↔ (start ≤ a ∧ a - start < n) ∨ (a < start ∧ a + 2 ^ 32 - start < n) := by
  simp only [inSpan, decide_eq_true_eq, Nat.mod_eq_of_lt hs]
  by_cases h : start ≤ a
  · have : (a + (2 ^ 32 - start)) % 2 ^ 32 = a - start := by
      rw [show a + (2 ^ 32 - start) = (a - start) + 2 ^ 32 by omega, Nat.add_mod_right, Nat.mod_eq_of_lt (by omega)]
    omega
  · have : (a + (2 ^ 32 - start)) % 2 ^ 32 = a + 2 ^ 32 - start := by
      rw [Nat.mod_eq_of_lt (by omega)]; omega
    omega

/-- `MemWrite(a, n, v)` leaves alone every byte that is not one of the n bytes from `a` on. -/
theorem memByte_memWrite_of_outside {m : Memory} {a b : Word} {n : Nat} (v : Nat)
    (h : inSpan a.toNat n b.toNat = false) : memByte (memWrite m a n v) b = memByte m b := by
  induction n generalizing m a v with
  | zero => rfl
  | succ n ih =>
    have hab : b ≠ a := by
      intro e
      subst e
      have := (inSpan_iff (start := b.toNat) (n := n + 1) b.isLt b.isLt).2 (Or.inl ⟨by omega, by omega⟩)
      rw [this] at h
      exact absurd h (by decide)
    have h2 : inSpan (a + 1).toNat n b.toNat = false := by
      by_contra hc
      have hc := (inSpan_iff (a + 1).isLt b.isLt).1 (by simpa using hc)
      have hn : ¬ ((a.toNat ≤ b.toNat ∧ b.toNat - a.toNat < n + 1) ∨
          (b.toNat < a.toNat ∧ b.toNat + 2 ^ 32 - a.toNat < n + 1)) := by
        rw [← inSpan_iff a.isLt b.isLt, h]; decide
      have hne : b.toNat ≠ a.toNat := fun e => hab (BitVec.eq_of_toNat_eq e)
      have ha := a.isLt
      have hb := b.isLt
      have h1 : (a + 1).toNat = (a.toNat + 1) % 2 ^ 32 := by simp [BitVec.toNat_add]
      rw [h1] at hc
      by_cases hw : a.toNat + 1 = 2 ^ 32
      · rw [hw, Nat.mod_self] at hc; omega
      · rw [Nat.mod_eq_of_lt (by omega)] at hc; omega
    exact (ih (v / 256) h2).trans (memByte_memSetByte_ne m _ hab)

/-- Two spans meet exactly when they share a byte. -/
theorem spansMeet_iff {a n b m : Nat} (ha : a < 2 ^ 32) (hb : b < 2 ^ 32) (hn : n < 2 ^ 32) (hm : m < 2 ^ 32) :
    spansMeet a n b m = true ↔ ∃ c < 2 ^ 32, inSpan a n c = true ∧ inSpan b m c = true := by
  simp only [spansMeet, Bool.and_eq_true, Bool.or_eq_true, decide_eq_true_eq, inSpan_iff ha hb, inSpan_iff hb ha]
  constructor
  · rintro ⟨⟨h1, h2⟩, h3⟩
    rcases h3 with h3 | h3
    · exact ⟨b, hb, (inSpan_iff ha hb).2 h3, (inSpan_iff hb hb).2 (by omega)⟩
    · exact ⟨a, ha, (inSpan_iff ha ha).2 (by omega), (inSpan_iff hb ha).2 h3⟩
  · rintro ⟨c, hc, h1, h2⟩
    rw [inSpan_iff ha hc] at h1
    rw [inSpan_iff hb hc] at h2
    omega

/-- What an access to plane memory does to the failures still to come. -/
theorem busAccess_cases (f : List Nat) :
    (f = [] ∧ busAccess f = (true, [])) ∨ (∃ t, f = 0 :: t ∧ busAccess f = (false, t)) ∨
      ∃ n t, f = (n + 1) :: t ∧ busAccess f = (true, n :: t) := by
  match f with
  | [] => exact Or.inl ⟨rfl, rfl⟩
  | 0 :: t => exact Or.inr (Or.inl ⟨t, rfl, rfl⟩)
  | (n + 1) :: t => exact Or.inr (Or.inr ⟨n, t, rfl, rfl⟩)

/-! ### Arithmetic -/

/-- `rnd(n, d)` is the integer nearest n/d, a tie going up (00_scope R12). -/
theorem rnd_bounds (n : Int) {d : Nat} (hd : 0 < d) :
    2 * (d : Int) * rnd n d ≤ 2 * n + d ∧ 2 * n + d < 2 * (d : Int) * rnd n d + 2 * d := by
  have hd' : (0 : Int) < 2 * (d : Int) := by omega
  unfold rnd
  exact ⟨Int.mul_ediv_self_le (by omega), by have := Int.lt_mul_ediv_self_add (x := 2 * n + (d : Int)) hd'; omega⟩

/-- `clamp(v, lo, hi)` lies in lo..hi. -/
theorem clamp_bounds (v : Int) {lo hi : Int} (h : lo ≤ hi) : lo ≤ clamp v lo hi ∧ clamp v lo hi ≤ hi := by
  unfold clamp; omega

/-- A value in lo..hi is left alone by `clamp`. -/
theorem clamp_of_mem {v lo hi : Int} (h1 : lo ≤ v) (h2 : v ≤ hi) : clamp v lo hi = v := by
  unfold clamp; omega

end Sys2Proof.Machine
end

