-- ==== Sys2Proof/Laws/Job.lean ====
section
/-! SUPPORT. What a job can do: the frame of a pixel's value, the inversion of a pixel, the induction over a job's steps,
and what every job keeps (the canonical memory, the bytes outside its destination, the job latch). -/

namespace Sys2Proof.Machine

/-! ### A pixel's value changes only the working state and the accumulator -/

/-- Computing a pixel's value touches neither memory, nor the failures to come, nor the writes. -/
theorem pixelValue_frame (s : State) (x y raw : Nat) (r : Run) :
    (pixelValue s x y raw r).2.mem = r.mem ∧ (pixelValue s x y raw r).2.busFail = r.busFail ∧
      (pixelValue s x y raw r).2.writes = r.writes ∧ (pixelValue s x y raw r).2.work.j = r.work.j ∧
      (pixelValue s x y raw r).2.work.g = r.work.g ∧ (pixelValue s x y raw r).2.work.o = r.work.o ∧
      (pixelValue s x y raw r).2.work.rot = r.work.rot ∧ (pixelValue s x y raw r).2.work.dir = r.work.dir := by
  unfold pixelValue
  split <;> refine ⟨rfl, rfl, rfl, rfl, rfl, rfl, rfl, rfl⟩

/-- The noise state after a pixel's value: one draw for the routines that draw noise (41_noise R170). -/
theorem pixelValue_ns (s : State) (x y raw : Nat) (r : Run) :
    (pixelValue s x y raw r).2.work.ns =
      if drawsNoise s.act.routine then (ngDraw r.work.ns s.act.tpdfNoise).1 else r.work.ns := by
  unfold pixelValue
  cases s.act.routine <;> rfl

/-- The accumulator after a pixel's value: only ERRDIF touches it. -/
theorem pixelValue_acc (s : State) (x y raw : Nat) (r : Run) :
    (pixelValue s x y raw r).2.acc = r.acc ∨
      ∃ k sl, s.act.routine = .errdif k ∧
        (pixelValue s x y raw r).2.acc = accDiffuse (kernelDepth k) r.work.dir x y sl r.acc := by
  unfold pixelValue
  cases h : s.act.routine with
  | errdif k => exact Or.inr ⟨k, _, rfl, rfl⟩
  | _ => exact Or.inl rfl

/-! ### The steps of a job, inverted -/

/-- The run a pixel computes its value in: one access answered, the scan position at the pixel. -/
def pixelRun (x y : Nat) (f : List Nat) (r : Run) : Run :=
  { r with busFail := f, work := { r.work with y := y, x := x } }

/-- The value of a pixel and the run after it, from the run before the pixel. -/
def pixelResult (s : State) (x y : Nat) (f : List Nat) (r : Run) : Nat × Run :=
  pixelValue s x y (memRead r.mem ((sourcePlane s.act r.work.j).addr x y) (sourcePlane s.act r.work.j).size)
    (pixelRun x y f r)

/-- A pixel that both accesses answer: its sample is written, and the write is listed. -/
theorem pixelStep_ok {s : State} {x y : Nat} {r r' : Run} (h : pixelStep s x y r = .ok r') :
    ∃ f g, busAccess r.busFail = (true, f) ∧ busAccess f = (true, g) ∧
      r' = { (pixelResult s x y f r).2 with
        busFail := g
        mem := memWrite r.mem ((destPlane s.act r.work.j).addr x y) (destPlane s.act r.work.j).size
          (pixelResult s x y f r).1
        writes := ((destPlane s.act r.work.j).addr x y, (pixelResult s x y f r).1) :: r.writes } := by
  unfold pixelStep at h
  rcases hb : busAccess r.busFail with ⟨b, f⟩
  cases b with
  | false => simp [hb] at h
  | true =>
    have hr : pixelRun x y f r = { r with busFail := f, work := { r.work with y := y, x := x } } := rfl
    simp only [hb, if_true, ← hr] at h
    change writePixel s x y (pixelResult s x y f r).1 (pixelResult s x y f r).2 = .ok r' at h
    obtain ⟨hm, hf, hw, hj, -⟩ := pixelValue_frame s x y
      (memRead r.mem ((sourcePlane s.act r.work.j).addr x y) (sourcePlane s.act r.work.j).size) (pixelRun x y f r)
    change (pixelResult s x y f r).2.mem = r.mem at hm
    change (pixelResult s x y f r).2.busFail = f at hf
    change (pixelResult s x y f r).2.writes = r.writes at hw
    change (pixelResult s x y f r).2.work.j = r.work.j at hj
    unfold writePixel at h
    rcases hb2 : busAccess f with ⟨b2, g⟩
    cases b2 with
    | false => simp [hf, hb2] at h
    | true =>
      simp only [hf, hb2, if_true, hm, hw, hj] at h
      exact ⟨f, g, rfl, hb2, (Except.ok.inj h).symm⟩

/-- A pixel that an access fails: the read of the source sample, before anything is computed, or the write of the
destination sample, the computed sample being listed. Memory is as before. -/
theorem pixelStep_error {s : State} {x y : Nat} {r : Run} {b : BusFailure} (h : pixelStep s x y r = .error b) :
    (∃ f, busAccess r.busFail = (false, f) ∧ b.addr = (sourcePlane s.act r.work.j).addr x y ∧
      b.run = pixelRun x y f r) ∨
    ∃ f g, busAccess r.busFail = (true, f) ∧ busAccess f = (false, g) ∧
      b.addr = (destPlane s.act r.work.j).addr x y ∧
      b.run = { (pixelResult s x y f r).2 with
        busFail := g
        mem := r.mem
        writes := ((destPlane s.act r.work.j).addr x y, (pixelResult s x y f r).1) :: r.writes } := by
  unfold pixelStep at h
  rcases hb : busAccess r.busFail with ⟨b1, f⟩
  cases b1 with
  | false =>
    simp only [hb, Bool.false_eq_true, if_false] at h
    exact Or.inl ⟨f, rfl, by rw [← Except.error.inj h], by rw [← Except.error.inj h]; rfl⟩
  | true =>
    have hr : pixelRun x y f r = { r with busFail := f, work := { r.work with y := y, x := x } } := rfl
    simp only [hb, if_true, ← hr] at h
    change writePixel s x y (pixelResult s x y f r).1 (pixelResult s x y f r).2 = .error b at h
    obtain ⟨hm, hf, hw, hj, -⟩ := pixelValue_frame s x y
      (memRead r.mem ((sourcePlane s.act r.work.j).addr x y) (sourcePlane s.act r.work.j).size) (pixelRun x y f r)
    change (pixelResult s x y f r).2.mem = r.mem at hm
    change (pixelResult s x y f r).2.busFail = f at hf
    change (pixelResult s x y f r).2.writes = r.writes at hw
    change (pixelResult s x y f r).2.work.j = r.work.j at hj
    unfold writePixel at h
    rcases hb2 : busAccess f with ⟨b2, g⟩
    cases b2 with
    | true => simp [hf, hb2] at h
    | false =>
      simp only [hf, hb2, Bool.false_eq_true, if_false, hw, hj] at h
      refine Or.inr ⟨f, g, rfl, hb2, by rw [← Except.error.inj h], ?_⟩
      rw [← Except.error.inj h, ← hm]

/-- The induction over a job's steps: what holds before them, and is kept by each of them, holds after them. -/
theorem runSteps_induct {s : State} {P : Run → Prop} {steps : List JobStep} {r r' : Run}
    (hstep : ∀ m ∈ steps, ∀ a b, P a → jobStep s m a = .ok b → P b) (h0 : P r)
    (h : runSteps s steps r = .ok r') : P r' := by
  induction steps generalizing r with
  | nil => cases h; exact h0
  | cons m t ih =>
    rw [runSteps] at h
    split at h
    · rename_i a ha
      exact ih (fun m' hm' => hstep m' (List.mem_cons_of_mem _ hm')) (hstep m List.mem_cons_self r a h0 ha) h
    · cases h

/-- A failed run stopped at one step, in a run the steps before it reached. -/
theorem runSteps_error_induct {s : State} {P : Run → Prop} {steps : List JobStep} {r : Run} {b : BusFailure}
    (hstep : ∀ m ∈ steps, ∀ a c, P a → jobStep s m a = .ok c → P c) (h0 : P r)
    (h : runSteps s steps r = .error b) : ∃ m ∈ steps, ∃ a, P a ∧ jobStep s m a = .error b := by
  induction steps generalizing r with
  | nil => cases h
  | cons m t ih =>
    rw [runSteps] at h
    split at h
    · rename_i a ha
      obtain ⟨m', hm', c, hc⟩ :=
        ih (fun m' hm' => hstep m' (List.mem_cons_of_mem _ hm')) (hstep m List.mem_cons_self r a h0 ha) h
      exact ⟨m', List.mem_cons_of_mem _ hm', c, hc⟩
    · rename_i e he
      refine ⟨m, List.mem_cons_self, r, h0, ?_⟩
      cases h
      exact he

/-- Running one list of steps after another. -/
theorem runSteps_append (s : State) (l l' : List JobStep) (r : Run) :
    runSteps s (l ++ l') r =
      match runSteps s l r with
      | .ok r' => runSteps s l' r'
      | .error b => .error b := by
  induction l generalizing r with
  | nil => rfl
  | cons m t ih =>
    simp only [List.cons_append, runSteps]
    cases jobStep s m r with
    | ok a => exact ih a
    | error b => rfl

/-- The pixels of a job lie in its plane. -/
theorem pixel_of_mem_jobSteps {r : Routine} {w h x y : Nat} (hm : JobStep.pixel x y ∈ jobSteps r w h) :
    x < w ∧ y < h := by
  simp only [jobSteps, List.mem_flatMap, List.mem_range, rowSteps, List.mem_cons, List.mem_append, List.mem_map,
    List.not_mem_nil, or_false, reduceCtorEq, false_or] at hm
  obtain ⟨y', hy, x', hx, he⟩ := hm
  injection he with h1 h2
  subst h1 h2
  refine ⟨?_, hy⟩
  simp only [columnOrder] at hx
  split at hx
  · exact List.mem_range.1 (List.mem_reverse.1 hx)
  · exact List.mem_range.1 hx

/-- A row's start changes the working state only. -/
theorem rowStartStep_frame (s : State) (y : Nat) (r : Run) :
    (rowStartStep s y r).mem = r.mem ∧ (rowStartStep s y r).busFail = r.busFail ∧
      (rowStartStep s y r).acc = r.acc ∧ (rowStartStep s y r).writes = r.writes ∧
      (rowStartStep s y r).work.j = r.work.j ∧ (rowStartStep s y r).work.g = r.work.g ∧
      (rowStartStep s y r).work.o = r.work.o ∧ (rowStartStep s y r).work.rot = r.work.rot ∧
      (rowStartStep s y r).work.ns = r.work.ns := by
  exact ⟨rfl, rfl, rfl, rfl, rfl, rfl, rfl, rfl, rfl⟩

/-- A row's end leaves memory, the failures to come, the writes, the job latch, the gain and the rotation alone. -/
theorem rowEndStep_frame (s : State) (y : Nat) (r : Run) :
    (rowEndStep s y r).mem = r.mem ∧ (rowEndStep s y r).busFail = r.busFail ∧
      (rowEndStep s y r).writes = r.writes ∧ (rowEndStep s y r).work.j = r.work.j ∧
      (rowEndStep s y r).work.g = r.work.g ∧ (rowEndStep s y r).work.o = r.work.o ∧
      (rowEndStep s y r).work.rot = r.work.rot ∧ (rowEndStep s y r).work.dir = r.work.dir ∧
      (rowEndStep s y r).work.qc = r.work.qc := by
  exact ⟨rfl, rfl, rfl, rfl, rfl, rfl, rfl, rfl, rfl⟩

/-! ### What every job keeps -/

/-- The job latch, gain, offset and rotation do not change during a job. -/
theorem jobStep_constants {s : State} {m : JobStep} {r r' : Run} (h : jobStep s m r = .ok r') :
    r'.work.j = r.work.j ∧ r'.work.g = r.work.g ∧ r'.work.o = r.work.o ∧ r'.work.rot = r.work.rot := by
  cases m with
  | rowStart y => cases h; exact ⟨(rowStartStep_frame s y r).2.2.2.2.1, (rowStartStep_frame s y r).2.2.2.2.2.1,
      (rowStartStep_frame s y r).2.2.2.2.2.2.1, (rowStartStep_frame s y r).2.2.2.2.2.2.2.1⟩
  | rowEnd y => cases h; exact ⟨rfl, rfl, rfl, rfl⟩
  | pixel x y =>
    obtain ⟨f, g, -, -, rfl⟩ := pixelStep_ok h
    have hf := pixelValue_frame s x y (memRead r.mem ((sourcePlane s.act r.work.j).addr x y)
      (sourcePlane s.act r.work.j).size) (pixelRun x y f r)
    exact ⟨hf.2.2.2.1, hf.2.2.2.2.1, hf.2.2.2.2.2.1, hf.2.2.2.2.2.2.1⟩

/-- A step of a job keeps plane memory canonical. -/
theorem jobStep_memWf {s : State} {m : JobStep} {r r' : Run} (h : jobStep s m r = .ok r')
    (hw : Memory.wf r.mem = true) : Memory.wf r'.mem = true := by
  cases m with
  | rowStart y => cases h; rw [(rowStartStep_frame s y r).1]; exact hw
  | rowEnd y => cases h; rw [(rowEndStep_frame s y r).1]; exact hw
  | pixel x y =>
    obtain ⟨f, g, -, -, rfl⟩ := pixelStep_ok h
    exact memWrite_wf _ _ _ hw

/-- A step of a job changes no byte but those of the destination sample it writes. -/
theorem jobStep_outside {s : State} {m : JobStep} {r r' : Run} (h : jobStep s m r = .ok r') (a : Word)
    (hout : ∀ x y, m = .pixel x y →
      inSpan ((destPlane s.act r.work.j).addr x y).toNat (destPlane s.act r.work.j).size a.toNat = false) :
    memByte r'.mem a = memByte r.mem a := by
  cases m with
  | rowStart y => cases h; rw [(rowStartStep_frame s y r).1]
  | rowEnd y => cases h; rw [(rowEndStep_frame s y r).1]
  | pixel x y =>
    obtain ⟨f, g, -, -, rfl⟩ := pixelStep_ok h
    exact memByte_memWrite_of_outside _ (hout x y rfl)

/-- A sample's address is its row's address moved right, modulo 2^32 (20_memory R85). -/
theorem addr_toNat (p : Plane) (x y : Nat) :
    (p.addr x y).toNat = ((p.addr 0 y).toNat + x * p.size) % 2 ^ 32 := by
  have h : p.addr x y = p.addr 0 y + BitVec.ofNat 32 (x * p.size) := by
    unfold Plane.addr sampleAddr
    rw [show BitVec.ofNat 32 (x * p.size) = BitVec.ofInt 32 ((x * p.size : Nat) : Int) from
      (BitVec.ofInt_natCast 32 _).symm, ← BitVec.ofInt_add]
    congr 1
    push_cast
    ring
  rw [h, BitVec.toNat_add, BitVec.toNat_ofNat, Nat.add_mod_mod]

/-- The bytes of a plane's samples belong to the plane. -/
theorem holds_of_sample {p : Plane} {x y : Nat} {a : Word} (hx : x < p.width) (hy : y < p.height)
    (hs : p.width * p.size < 2 ^ 32) (h : inSpan (p.addr x y).toNat p.size a.toNat = true) : p.holds a = true := by
  unfold Plane.holds
  rw [List.any_eq_true]
  refine ⟨y, List.mem_range.2 hy, ?_⟩
  rw [addr_toNat] at h
  have hlt := (p.addr 0 y).isLt
  generalize (p.addr 0 y).toNat = b at *
  have ha := a.isLt
  have hmul : x * p.size + p.size ≤ p.width * p.size := by nlinarith
  rw [inSpan_iff (Nat.mod_lt _ (by omega)) ha] at h
  rw [inSpan_iff hlt ha]
  generalize x * p.size = c at *
  generalize p.width * p.size = n at *
  by_cases hc : b + c < 2 ^ 32
  · rw [Nat.mod_eq_of_lt hc] at h; omega
  · rw [show b + c = (b + c - 2 ^ 32) + 2 ^ 32 by omega, Nat.add_mod_right, Nat.mod_eq_of_lt (by omega)] at h
    omega

/-- `Plane.meets` says that two planes share a byte (20_memory R95). -/
theorem meets_iff {p q : Plane} (hp : p.width * p.size < 2 ^ 32) (hq : q.width * q.size < 2 ^ 32) :
    p.meets q = true ↔ ∃ a : Word, p.holds a = true ∧ q.holds a = true := by
  simp only [Plane.meets, Plane.holds, List.any_eq_true, List.mem_range]
  constructor
  · rintro ⟨y, hy, y', hy', h⟩
    obtain ⟨c, hc, h1, h2⟩ := (spansMeet_iff (p.addr 0 y).isLt (q.addr 0 y').isLt hp hq).1 h
    have hcn : (BitVec.ofNat 32 c).toNat = c := by rw [BitVec.toNat_ofNat]; omega
    exact ⟨BitVec.ofNat 32 c, ⟨y, hy, by rw [hcn]; exact h1⟩, y', hy', by rw [hcn]; exact h2⟩
  · rintro ⟨a, ⟨y, hy, h1⟩, y', hy', h2⟩
    exact ⟨y, hy, y', hy', (spansMeet_iff (p.addr 0 y).isLt (q.addr 0 y').isLt hp hq).2 ⟨a.toNat, a.isLt, h1, h2⟩⟩

/-- A sample's container has at most 4 bytes (20_memory R84). -/
theorem containerSize_le (f : Format) : containerSize f ≤ 4 := by
  unfold containerSize; split
  · omega
  · split <;> omega

/-- The fields of a job fit their registers: WIDTH and HEIGHT 16 bits, PLANE 2 bits (10_state R44, R45). -/
theorem jobOf_bounds (r : InputRegs) :
    (jobOf r).width < 65536 ∧ (jobOf r).height < 65536 ∧ (jobOf r).plane < 4 :=
  ⟨Nat.mod_lt _ (by omega), Nat.mod_lt _ (by omega), Nat.mod_lt _ (by omega)⟩

/-- A job's steps leave every byte outside its destination plane alone, whether or not an access fails. -/
theorem runSteps_outside {s : State} {steps : List JobStep} {r r' : Run} {j : JobLatch} (hj : r.work.j = j)
    (hin : ∀ x y, JobStep.pixel x y ∈ steps → x < j.width ∧ y < j.height) (hw : j.width < 65536) {a : Word}
    (ha : (destPlane s.act j).holds a = false) (h : runSteps s steps r = .ok r') :
    memByte r'.mem a = memByte r.mem a := by
  refine (runSteps_induct (P := fun q => q.work.j = j ∧ memByte q.mem a = memByte r.mem a) ?_ ⟨hj, rfl⟩ h).2
  rintro m hm q q' ⟨hq, hqa⟩ hstep
  refine ⟨(jobStep_constants hstep).1.trans hq, (jobStep_outside hstep a ?_).trans hqa⟩
  rintro x y rfl
  rw [hq]
  by_contra hc
  obtain ⟨h1, h2⟩ := hin x y hm
  have hsz := containerSize_le s.act.dst
  have := holds_of_sample (p := destPlane s.act j) h1 h2
    (by show j.width * containerSize s.act.dst < 2 ^ 32; nlinarith) (by simpa using hc)
  rw [this] at ha
  cases ha

/-- A job's steps keep plane memory canonical. -/
theorem runSteps_memWf {s : State} {steps : List JobStep} {r r' : Run} (hw : Memory.wf r.mem = true)
    (h : runSteps s steps r = .ok r') : Memory.wf r'.mem = true :=
  runSteps_induct (P := fun q => Memory.wf q.mem = true) (fun _ _ _ _ hq hs => jobStep_memWf hs hq) hw h

/-- The memory a failed job leaves is canonical. -/
theorem landedMem_wf {m : Memory} (n size : Nat) (w : List (Word × Nat)) (h : Memory.wf m = true) :
    Memory.wf (landedMem n size m w) = true := by
  induction w with
  | nil => exact h
  | cons p t ih =>
    obtain ⟨a, v⟩ := p
    rw [landedMem]
    split
    · exact memWrite_wf _ _ _ ih
    · exact ih

/-- A job whose accesses all succeed does not fail. -/
theorem runSteps_busFail_nil {s : State} {steps : List JobStep} {r : Run} (h : r.busFail = []) :
    ∃ r', runSteps s steps r = .ok r' ∧ r'.busFail = [] := by
  induction steps generalizing r with
  | nil => exact ⟨r, rfl, h⟩
  | cons m t ih =>
    have hm : ∃ r', jobStep s m r = .ok r' ∧ r'.busFail = [] := by
      cases m with
      | rowStart y => exact ⟨_, rfl, (rowStartStep_frame s y r).2.1.trans h⟩
      | rowEnd y => exact ⟨_, rfl, (rowEndStep_frame s y r).2.1.trans h⟩
      | pixel x y =>
        cases hp : jobStep s (.pixel x y) r with
        | ok r' =>
          obtain ⟨f, g, h1, h2, rfl⟩ := pixelStep_ok hp
          rw [h] at h1
          cases h1
          cases h2
          exact ⟨_, rfl, rfl⟩
        | error b =>
          rcases pixelStep_error hp with ⟨f, h1, -⟩ | ⟨f, g, h1, h2, -⟩
          · rw [h] at h1; cases h1
          · rw [h] at h1; cases h1; cases h2
    obtain ⟨r', h1, h2⟩ := hm
    obtain ⟨r'', h3, h4⟩ := ih h2
    exact ⟨r'', by rw [runSteps, h1]; exact h3, h4⟩

end Sys2Proof.Machine
end

