-- ==== Sys2Proof/Laws/PerInstr.lean ====
section
/-! SUPPORT. The family `EncodedWord`, one lemma per command: the encoder puts the opcode of 30_encoding R114 in bits 7:0
and leaves every bit above 25 clear (30_encoding R112, R121). -/

namespace Sys2Proof.Laws.EncodedWord

/-- The word of a well-formed command carries its opcode in bits 7:0, and no bit above 25 (30_encoding R112). -/
def Statement (i : Instr) : Prop :=
  i.wellFormed = true → opcodeOf (encode i) = opcode i ∧ (encode i).toNat < 2 ^ 26

theorem nop : Statement .nop := fun _ => by decide
theorem construct : Statement .construct := fun _ => by decide
theorem processPlane : Statement .processPlane := fun _ => by decide
theorem softReset : Statement .softReset := fun _ => by decide
theorem rngStep : Statement .rngStep := fun _ => by decide
theorem rngEol : Statement .rngEol := fun _ => by decide
theorem rngSeed : Statement .rngSeed := fun _ => by decide
theorem qrsNext : Statement .qrsNext := fun _ => by decide
theorem gainQuery : Statement .gainQuery := fun _ => by decide

theorem qrsSeed (y : Nat) : Statement (.qrsSeed y) := by
  intro h
  simp only [Instr.wellFormed, decide_eq_true_eq] at h
  simp only [encode, argumentBits, opcode, opcodeOf, field, BitVec.toNat_ofNat]
  omega

theorem patRead (px py rot : Nat) : Statement (.patRead px py rot) := by
  intro h
  simp only [Instr.wellFormed, Bool.and_eq_true, decide_eq_true_eq] at h
  simp only [encode, argumentBits, opcode, opcodeOf, field, BitVec.toNat_ofNat]
  omega

theorem edSplit (idx : Nat) : Statement (.edSplit idx) := by
  intro h
  simp only [Instr.wellFormed, decide_eq_true_eq] at h
  simp only [encode, argumentBits, opcode, opcodeOf, field, BitVec.toNat_ofNat]
  omega

end Sys2Proof.Laws.EncodedWord
end

