-- ==== Sys2Proof/Laws/State.lean ====
section
/-! SUPPORT. The fields of a state after each shared update, one lemma per field, true by unfolding the update. -/

namespace Sys2Proof.Machine

/-! ### `succeed` -/

@[simp] theorem succeed_inp (s : State) : (succeed s).inp = s.inp := rfl
@[simp] theorem succeed_irqEn (s : State) : (succeed s).irqEn = s.irqEn := rfl
@[simp] theorem succeed_irqStatus (s : State) : (succeed s).irqStatus = setDone s.irqStatus := rfl
@[simp] theorem succeed_errCode (s : State) : (succeed s).errCode = s.errCode := rfl
@[simp] theorem succeed_errInfo (s : State) : (succeed s).errInfo = s.errInfo := rfl
@[simp] theorem succeed_rngOut (s : State) : (succeed s).rngOut = s.rngOut := rfl
@[simp] theorem succeed_qrsOut (s : State) : (succeed s).qrsOut = s.qrsOut := rfl
@[simp] theorem succeed_gainLo (s : State) : (succeed s).gainLo = s.gainLo := rfl
@[simp] theorem succeed_gainHi (s : State) : (succeed s).gainHi = s.gainHi := rfl
@[simp] theorem succeed_offLo (s : State) : (succeed s).offLo = s.offLo := rfl
@[simp] theorem succeed_offHi (s : State) : (succeed s).offHi = s.offHi := rfl
@[simp] theorem succeed_patOut (s : State) : (succeed s).patOut = s.patOut := rfl
@[simp] theorem succeed_edDiscard (s : State) : (succeed s).edDiscard = s.edDiscard := rfl
@[simp] theorem succeed_edSlots (s : State) : (succeed s).edSlots = s.edSlots := rfl
@[simp] theorem succeed_cfgValid (s : State) : (succeed s).cfgValid = s.cfgValid := rfl
@[simp] theorem succeed_act (s : State) : (succeed s).act = s.act := rfl
@[simp] theorem succeed_pat (s : State) : (succeed s).pat = s.pat := rfl
@[simp] theorem succeed_vacRank (s : State) : (succeed s).vacRank = s.vacRank := rfl
@[simp] theorem succeed_ostroTab (s : State) : (succeed s).ostroTab = s.ostroTab := rfl
@[simp] theorem succeed_acc (s : State) : (succeed s).acc = s.acc := rfl
@[simp] theorem succeed_latch (s : State) : (succeed s).latch = none := rfl
@[simp] theorem succeed_work (s : State) : (succeed s).work = s.work := rfl
@[simp] theorem succeed_mem (s : State) : (succeed s).mem = s.mem := rfl
@[simp] theorem succeed_host (s : State) : (succeed s).host = s.host := rfl
@[simp] theorem succeed_turns (s : State) : (succeed s).turns = s.turns := rfl
@[simp] theorem succeed_hostData (s : State) : (succeed s).hostData = s.hostData := rfl
@[simp] theorem succeed_busFail (s : State) : (succeed s).busFail = s.busFail := rfl
@[simp] theorem succeed_devices (s : State) : (succeed s).devices = s.devices := rfl
@[simp] theorem succeed_free (s : State) : (succeed s).free = s.free := rfl

/-! ### `raiseError` -/

@[simp] theorem raiseError_inp (e : ErrorCode) (info : Word) (s : State) : (raiseError e info s).inp = s.inp := rfl
@[simp] theorem raiseError_irqEn (e : ErrorCode) (info : Word) (s : State) : (raiseError e info s).irqEn = s.irqEn := rfl
@[simp] theorem raiseError_irqStatus (e : ErrorCode) (info : Word) (s : State) : (raiseError e info s).irqStatus = setErr s.irqStatus := rfl
@[simp] theorem raiseError_errCode (e : ErrorCode) (info : Word) (s : State) : (raiseError e info s).errCode = errorCode e := rfl
@[simp] theorem raiseError_errInfo (e : ErrorCode) (info : Word) (s : State) : (raiseError e info s).errInfo = info := rfl
@[simp] theorem raiseError_rngOut (e : ErrorCode) (info : Word) (s : State) : (raiseError e info s).rngOut = s.rngOut := rfl
@[simp] theorem raiseError_qrsOut (e : ErrorCode) (info : Word) (s : State) : (raiseError e info s).qrsOut = s.qrsOut := rfl
@[simp] theorem raiseError_gainLo (e : ErrorCode) (info : Word) (s : State) : (raiseError e info s).gainLo = s.gainLo := rfl
@[simp] theorem raiseError_gainHi (e : ErrorCode) (info : Word) (s : State) : (raiseError e info s).gainHi = s.gainHi := rfl
@[simp] theorem raiseError_offLo (e : ErrorCode) (info : Word) (s : State) : (raiseError e info s).offLo = s.offLo := rfl
@[simp] theorem raiseError_offHi (e : ErrorCode) (info : Word) (s : State) : (raiseError e info s).offHi = s.offHi := rfl
@[simp] theorem raiseError_patOut (e : ErrorCode) (info : Word) (s : State) : (raiseError e info s).patOut = s.patOut := rfl
@[simp] theorem raiseError_edDiscard (e : ErrorCode) (info : Word) (s : State) : (raiseError e info s).edDiscard = s.edDiscard := rfl
@[simp] theorem raiseError_edSlots (e : ErrorCode) (info : Word) (s : State) : (raiseError e info s).edSlots = s.edSlots := rfl
@[simp] theorem raiseError_cfgValid (e : ErrorCode) (info : Word) (s : State) : (raiseError e info s).cfgValid = s.cfgValid := rfl
@[simp] theorem raiseError_act (e : ErrorCode) (info : Word) (s : State) : (raiseError e info s).act = s.act := rfl
@[simp] theorem raiseError_pat (e : ErrorCode) (info : Word) (s : State) : (raiseError e info s).pat = s.pat := rfl
@[simp] theorem raiseError_vacRank (e : ErrorCode) (info : Word) (s : State) : (raiseError e info s).vacRank = s.vacRank := rfl
@[simp] theorem raiseError_ostroTab (e : ErrorCode) (info : Word) (s : State) : (raiseError e info s).ostroTab = s.ostroTab := rfl
@[simp] theorem raiseError_acc (e : ErrorCode) (info : Word) (s : State) : (raiseError e info s).acc = s.acc := rfl
@[simp] theorem raiseError_latch (e : ErrorCode) (info : Word) (s : State) : (raiseError e info s).latch = s.latch := rfl
@[simp] theorem raiseError_work (e : ErrorCode) (info : Word) (s : State) : (raiseError e info s).work = s.work := rfl
@[simp] theorem raiseError_mem (e : ErrorCode) (info : Word) (s : State) : (raiseError e info s).mem = s.mem := rfl
@[simp] theorem raiseError_host (e : ErrorCode) (info : Word) (s : State) : (raiseError e info s).host = s.host := rfl
@[simp] theorem raiseError_turns (e : ErrorCode) (info : Word) (s : State) : (raiseError e info s).turns = s.turns := rfl
@[simp] theorem raiseError_hostData (e : ErrorCode) (info : Word) (s : State) : (raiseError e info s).hostData = s.hostData := rfl
@[simp] theorem raiseError_busFail (e : ErrorCode) (info : Word) (s : State) : (raiseError e info s).busFail = s.busFail := rfl
@[simp] theorem raiseError_devices (e : ErrorCode) (info : Word) (s : State) : (raiseError e info s).devices = s.devices := rfl
@[simp] theorem raiseError_free (e : ErrorCode) (info : Word) (s : State) : (raiseError e info s).free = s.free := rfl

/-! ### `failWith` -/

@[simp] theorem failWith_inp (e : ErrorCode) (info : Word) (s : State) : (failWith e info s).inp = s.inp := rfl
@[simp] theorem failWith_irqEn (e : ErrorCode) (info : Word) (s : State) : (failWith e info s).irqEn = s.irqEn := rfl
@[simp] theorem failWith_irqStatus (e : ErrorCode) (info : Word) (s : State) : (failWith e info s).irqStatus = setErr s.irqStatus := rfl
@[simp] theorem failWith_errCode (e : ErrorCode) (info : Word) (s : State) : (failWith e info s).errCode = errorCode e := rfl
@[simp] theorem failWith_errInfo (e : ErrorCode) (info : Word) (s : State) : (failWith e info s).errInfo = info := rfl
@[simp] theorem failWith_rngOut (e : ErrorCode) (info : Word) (s : State) : (failWith e info s).rngOut = s.rngOut := rfl
@[simp] theorem failWith_qrsOut (e : ErrorCode) (info : Word) (s : State) : (failWith e info s).qrsOut = s.qrsOut := rfl
@[simp] theorem failWith_gainLo (e : ErrorCode) (info : Word) (s : State) : (failWith e info s).gainLo = s.gainLo := rfl
@[simp] theorem failWith_gainHi (e : ErrorCode) (info : Word) (s : State) : (failWith e info s).gainHi = s.gainHi := rfl
@[simp] theorem failWith_offLo (e : ErrorCode) (info : Word) (s : State) : (failWith e info s).offLo = s.offLo := rfl
@[simp] theorem failWith_offHi (e : ErrorCode) (info : Word) (s : State) : (failWith e info s).offHi = s.offHi := rfl
@[simp] theorem failWith_patOut (e : ErrorCode) (info : Word) (s : State) : (failWith e info s).patOut = s.patOut := rfl
@[simp] theorem failWith_edDiscard (e : ErrorCode) (info : Word) (s : State) : (failWith e info s).edDiscard = s.edDiscard := rfl
@[simp] theorem failWith_edSlots (e : ErrorCode) (info : Word) (s : State) : (failWith e info s).edSlots = s.edSlots := rfl
@[simp] theorem failWith_cfgValid (e : ErrorCode) (info : Word) (s : State) : (failWith e info s).cfgValid = s.cfgValid := rfl
@[simp] theorem failWith_act (e : ErrorCode) (info : Word) (s : State) : (failWith e info s).act = s.act := rfl
@[simp] theorem failWith_pat (e : ErrorCode) (info : Word) (s : State) : (failWith e info s).pat = s.pat := rfl
@[simp] theorem failWith_vacRank (e : ErrorCode) (info : Word) (s : State) : (failWith e info s).vacRank = s.vacRank := rfl
@[simp] theorem failWith_ostroTab (e : ErrorCode) (info : Word) (s : State) : (failWith e info s).ostroTab = s.ostroTab := rfl
@[simp] theorem failWith_acc (e : ErrorCode) (info : Word) (s : State) : (failWith e info s).acc = s.acc := rfl
@[simp] theorem failWith_latch (e : ErrorCode) (info : Word) (s : State) : (failWith e info s).latch = none := rfl
@[simp] theorem failWith_work (e : ErrorCode) (info : Word) (s : State) : (failWith e info s).work = s.work := rfl
@[simp] theorem failWith_mem (e : ErrorCode) (info : Word) (s : State) : (failWith e info s).mem = s.mem := rfl
@[simp] theorem failWith_host (e : ErrorCode) (info : Word) (s : State) : (failWith e info s).host = s.host := rfl
@[simp] theorem failWith_turns (e : ErrorCode) (info : Word) (s : State) : (failWith e info s).turns = s.turns := rfl
@[simp] theorem failWith_hostData (e : ErrorCode) (info : Word) (s : State) : (failWith e info s).hostData = s.hostData := rfl
@[simp] theorem failWith_busFail (e : ErrorCode) (info : Word) (s : State) : (failWith e info s).busFail = s.busFail := rfl
@[simp] theorem failWith_devices (e : ErrorCode) (info : Word) (s : State) : (failWith e info s).devices = s.devices := rfl
@[simp] theorem failWith_free (e : ErrorCode) (info : Word) (s : State) : (failWith e info s).free = s.free := rfl

/-! ### `acknowledge` -/

@[simp] theorem acknowledge_inp (v : Word) (s : State) : (acknowledge v s).inp = s.inp := rfl
@[simp] theorem acknowledge_irqEn (v : Word) (s : State) : (acknowledge v s).irqEn = s.irqEn := rfl
@[simp] theorem acknowledge_irqStatus (v : Word) (s : State) : (acknowledge v s).irqStatus = clearWritten s.irqStatus v := rfl
@[simp] theorem acknowledge_errCode (v : Word) (s : State) : (acknowledge v s).errCode = s.errCode := rfl
@[simp] theorem acknowledge_errInfo (v : Word) (s : State) : (acknowledge v s).errInfo = s.errInfo := rfl
@[simp] theorem acknowledge_rngOut (v : Word) (s : State) : (acknowledge v s).rngOut = s.rngOut := rfl
@[simp] theorem acknowledge_qrsOut (v : Word) (s : State) : (acknowledge v s).qrsOut = s.qrsOut := rfl
@[simp] theorem acknowledge_gainLo (v : Word) (s : State) : (acknowledge v s).gainLo = s.gainLo := rfl
@[simp] theorem acknowledge_gainHi (v : Word) (s : State) : (acknowledge v s).gainHi = s.gainHi := rfl
@[simp] theorem acknowledge_offLo (v : Word) (s : State) : (acknowledge v s).offLo = s.offLo := rfl
@[simp] theorem acknowledge_offHi (v : Word) (s : State) : (acknowledge v s).offHi = s.offHi := rfl
@[simp] theorem acknowledge_patOut (v : Word) (s : State) : (acknowledge v s).patOut = s.patOut := rfl
@[simp] theorem acknowledge_edDiscard (v : Word) (s : State) : (acknowledge v s).edDiscard = s.edDiscard := rfl
@[simp] theorem acknowledge_edSlots (v : Word) (s : State) : (acknowledge v s).edSlots = s.edSlots := rfl
@[simp] theorem acknowledge_cfgValid (v : Word) (s : State) : (acknowledge v s).cfgValid = s.cfgValid := rfl
@[simp] theorem acknowledge_act (v : Word) (s : State) : (acknowledge v s).act = s.act := rfl
@[simp] theorem acknowledge_pat (v : Word) (s : State) : (acknowledge v s).pat = s.pat := rfl
@[simp] theorem acknowledge_vacRank (v : Word) (s : State) : (acknowledge v s).vacRank = s.vacRank := rfl
@[simp] theorem acknowledge_ostroTab (v : Word) (s : State) : (acknowledge v s).ostroTab = s.ostroTab := rfl
@[simp] theorem acknowledge_acc (v : Word) (s : State) : (acknowledge v s).acc = s.acc := rfl
@[simp] theorem acknowledge_latch (v : Word) (s : State) : (acknowledge v s).latch = s.latch := rfl
@[simp] theorem acknowledge_work (v : Word) (s : State) : (acknowledge v s).work = s.work := rfl
@[simp] theorem acknowledge_mem (v : Word) (s : State) : (acknowledge v s).mem = s.mem := rfl
@[simp] theorem acknowledge_host (v : Word) (s : State) : (acknowledge v s).host = s.host := rfl
@[simp] theorem acknowledge_turns (v : Word) (s : State) : (acknowledge v s).turns = s.turns := rfl
@[simp] theorem acknowledge_hostData (v : Word) (s : State) : (acknowledge v s).hostData = s.hostData := rfl
@[simp] theorem acknowledge_busFail (v : Word) (s : State) : (acknowledge v s).busFail = s.busFail := rfl
@[simp] theorem acknowledge_devices (v : Word) (s : State) : (acknowledge v s).devices = s.devices := rfl
@[simp] theorem acknowledge_free (v : Word) (s : State) : (acknowledge v s).free = s.free := rfl

/-! ### `showGain` -/

@[simp] theorem showGain_inp (g o : Int) (s : State) : (showGain g o s).inp = s.inp := rfl
@[simp] theorem showGain_irqEn (g o : Int) (s : State) : (showGain g o s).irqEn = s.irqEn := rfl
@[simp] theorem showGain_irqStatus (g o : Int) (s : State) : (showGain g o s).irqStatus = s.irqStatus := rfl
@[simp] theorem showGain_errCode (g o : Int) (s : State) : (showGain g o s).errCode = s.errCode := rfl
@[simp] theorem showGain_errInfo (g o : Int) (s : State) : (showGain g o s).errInfo = s.errInfo := rfl
@[simp] theorem showGain_rngOut (g o : Int) (s : State) : (showGain g o s).rngOut = s.rngOut := rfl
@[simp] theorem showGain_qrsOut (g o : Int) (s : State) : (showGain g o s).qrsOut = s.qrsOut := rfl
@[simp] theorem showGain_gainLo (g o : Int) (s : State) : (showGain g o s).gainLo = (BitVec.ofInt 64 g).extractLsb' 0 32 := rfl
@[simp] theorem showGain_gainHi (g o : Int) (s : State) : (showGain g o s).gainHi = (BitVec.ofInt 64 g).extractLsb' 32 32 := rfl
@[simp] theorem showGain_offLo (g o : Int) (s : State) : (showGain g o s).offLo = (BitVec.ofInt 64 o).extractLsb' 0 32 := rfl
@[simp] theorem showGain_offHi (g o : Int) (s : State) : (showGain g o s).offHi = (BitVec.ofInt 64 o).extractLsb' 32 32 := rfl
@[simp] theorem showGain_patOut (g o : Int) (s : State) : (showGain g o s).patOut = s.patOut := rfl
@[simp] theorem showGain_edDiscard (g o : Int) (s : State) : (showGain g o s).edDiscard = s.edDiscard := rfl
@[simp] theorem showGain_edSlots (g o : Int) (s : State) : (showGain g o s).edSlots = s.edSlots := rfl
@[simp] theorem showGain_cfgValid (g o : Int) (s : State) : (showGain g o s).cfgValid = s.cfgValid := rfl
@[simp] theorem showGain_act (g o : Int) (s : State) : (showGain g o s).act = s.act := rfl
@[simp] theorem showGain_pat (g o : Int) (s : State) : (showGain g o s).pat = s.pat := rfl
@[simp] theorem showGain_vacRank (g o : Int) (s : State) : (showGain g o s).vacRank = s.vacRank := rfl
@[simp] theorem showGain_ostroTab (g o : Int) (s : State) : (showGain g o s).ostroTab = s.ostroTab := rfl
@[simp] theorem showGain_acc (g o : Int) (s : State) : (showGain g o s).acc = s.acc := rfl
@[simp] theorem showGain_latch (g o : Int) (s : State) : (showGain g o s).latch = s.latch := rfl
@[simp] theorem showGain_work (g o : Int) (s : State) : (showGain g o s).work = s.work := rfl
@[simp] theorem showGain_mem (g o : Int) (s : State) : (showGain g o s).mem = s.mem := rfl
@[simp] theorem showGain_host (g o : Int) (s : State) : (showGain g o s).host = s.host := rfl
@[simp] theorem showGain_turns (g o : Int) (s : State) : (showGain g o s).turns = s.turns := rfl
@[simp] theorem showGain_hostData (g o : Int) (s : State) : (showGain g o s).hostData = s.hostData := rfl
@[simp] theorem showGain_busFail (g o : Int) (s : State) : (showGain g o s).busFail = s.busFail := rfl
@[simp] theorem showGain_devices (g o : Int) (s : State) : (showGain g o s).devices = s.devices := rfl
@[simp] theorem showGain_free (g o : Int) (s : State) : (showGain g o s).free = s.free := rfl

/-! ### `commitConfig` -/

@[simp] theorem commitConfig_inp (a : ActiveConfig) (s : State) : (commitConfig a s).inp = s.inp := rfl
@[simp] theorem commitConfig_irqEn (a : ActiveConfig) (s : State) : (commitConfig a s).irqEn = s.irqEn := rfl
@[simp] theorem commitConfig_irqStatus (a : ActiveConfig) (s : State) : (commitConfig a s).irqStatus = s.irqStatus := rfl
@[simp] theorem commitConfig_errCode (a : ActiveConfig) (s : State) : (commitConfig a s).errCode = s.errCode := rfl
@[simp] theorem commitConfig_errInfo (a : ActiveConfig) (s : State) : (commitConfig a s).errInfo = s.errInfo := rfl
@[simp] theorem commitConfig_rngOut (a : ActiveConfig) (s : State) : (commitConfig a s).rngOut = s.rngOut := rfl
@[simp] theorem commitConfig_qrsOut (a : ActiveConfig) (s : State) : (commitConfig a s).qrsOut = s.qrsOut := rfl
@[simp] theorem commitConfig_gainLo (a : ActiveConfig) (s : State) : (commitConfig a s).gainLo = s.gainLo := rfl
@[simp] theorem commitConfig_gainHi (a : ActiveConfig) (s : State) : (commitConfig a s).gainHi = s.gainHi := rfl
@[simp] theorem commitConfig_offLo (a : ActiveConfig) (s : State) : (commitConfig a s).offLo = s.offLo := rfl
@[simp] theorem commitConfig_offHi (a : ActiveConfig) (s : State) : (commitConfig a s).offHi = s.offHi := rfl
@[simp] theorem commitConfig_patOut (a : ActiveConfig) (s : State) : (commitConfig a s).patOut = s.patOut := rfl
@[simp] theorem commitConfig_edDiscard (a : ActiveConfig) (s : State) : (commitConfig a s).edDiscard = s.edDiscard := rfl
@[simp] theorem commitConfig_edSlots (a : ActiveConfig) (s : State) : (commitConfig a s).edSlots = s.edSlots := rfl
@[simp] theorem commitConfig_cfgValid (a : ActiveConfig) (s : State) : (commitConfig a s).cfgValid = true := rfl
@[simp] theorem commitConfig_act (a : ActiveConfig) (s : State) : (commitConfig a s).act = a := rfl
@[simp] theorem commitConfig_pat (a : ActiveConfig) (s : State) : (commitConfig a s).pat = buildPattern s.vacRank a s.pat := rfl
@[simp] theorem commitConfig_vacRank (a : ActiveConfig) (s : State) : (commitConfig a s).vacRank = s.vacRank := rfl
@[simp] theorem commitConfig_ostroTab (a : ActiveConfig) (s : State) : (commitConfig a s).ostroTab = s.ostroTab := rfl
@[simp] theorem commitConfig_acc (a : ActiveConfig) (s : State) : (commitConfig a s).acc = s.acc := rfl
@[simp] theorem commitConfig_latch (a : ActiveConfig) (s : State) : (commitConfig a s).latch = s.latch := rfl
@[simp] theorem commitConfig_work (a : ActiveConfig) (s : State) : (commitConfig a s).work = s.work := rfl
@[simp] theorem commitConfig_mem (a : ActiveConfig) (s : State) : (commitConfig a s).mem = s.mem := rfl
@[simp] theorem commitConfig_host (a : ActiveConfig) (s : State) : (commitConfig a s).host = s.host := rfl
@[simp] theorem commitConfig_turns (a : ActiveConfig) (s : State) : (commitConfig a s).turns = s.turns := rfl
@[simp] theorem commitConfig_hostData (a : ActiveConfig) (s : State) : (commitConfig a s).hostData = s.hostData := rfl
@[simp] theorem commitConfig_busFail (a : ActiveConfig) (s : State) : (commitConfig a s).busFail = s.busFail := rfl
@[simp] theorem commitConfig_devices (a : ActiveConfig) (s : State) : (commitConfig a s).devices = s.devices := rfl
@[simp] theorem commitConfig_free (a : ActiveConfig) (s : State) : (commitConfig a s).free = s.free := rfl

/-! ### `abandonJob` -/

@[simp] theorem abandonJob_inp (r : Run) (s : State) : (abandonJob r s).inp = s.inp := rfl
@[simp] theorem abandonJob_irqEn (r : Run) (s : State) : (abandonJob r s).irqEn = s.irqEn := rfl
@[simp] theorem abandonJob_irqStatus (r : Run) (s : State) : (abandonJob r s).irqStatus = s.irqStatus := rfl
@[simp] theorem abandonJob_errCode (r : Run) (s : State) : (abandonJob r s).errCode = s.errCode := rfl
@[simp] theorem abandonJob_errInfo (r : Run) (s : State) : (abandonJob r s).errInfo = s.errInfo := rfl
@[simp] theorem abandonJob_rngOut (r : Run) (s : State) : (abandonJob r s).rngOut = s.rngOut := rfl
@[simp] theorem abandonJob_qrsOut (r : Run) (s : State) : (abandonJob r s).qrsOut = s.qrsOut := rfl
@[simp] theorem abandonJob_gainLo (r : Run) (s : State) : (abandonJob r s).gainLo = s.gainLo := rfl
@[simp] theorem abandonJob_gainHi (r : Run) (s : State) : (abandonJob r s).gainHi = s.gainHi := rfl
@[simp] theorem abandonJob_offLo (r : Run) (s : State) : (abandonJob r s).offLo = s.offLo := rfl
@[simp] theorem abandonJob_offHi (r : Run) (s : State) : (abandonJob r s).offHi = s.offHi := rfl
@[simp] theorem abandonJob_patOut (r : Run) (s : State) : (abandonJob r s).patOut = s.patOut := rfl
@[simp] theorem abandonJob_edDiscard (r : Run) (s : State) : (abandonJob r s).edDiscard = s.edDiscard := rfl
@[simp] theorem abandonJob_edSlots (r : Run) (s : State) : (abandonJob r s).edSlots = s.edSlots := rfl
@[simp] theorem abandonJob_cfgValid (r : Run) (s : State) : (abandonJob r s).cfgValid = s.cfgValid := rfl
@[simp] theorem abandonJob_act (r : Run) (s : State) : (abandonJob r s).act = s.act := rfl
@[simp] theorem abandonJob_pat (r : Run) (s : State) : (abandonJob r s).pat = s.pat := rfl
@[simp] theorem abandonJob_vacRank (r : Run) (s : State) : (abandonJob r s).vacRank = s.vacRank := rfl
@[simp] theorem abandonJob_ostroTab (r : Run) (s : State) : (abandonJob r s).ostroTab = s.ostroTab := rfl
@[simp] theorem abandonJob_acc (r : Run) (s : State) : (abandonJob r s).acc = r.acc := rfl
@[simp] theorem abandonJob_latch (r : Run) (s : State) : (abandonJob r s).latch = s.latch := rfl
@[simp] theorem abandonJob_work (r : Run) (s : State) : (abandonJob r s).work = Config.anyWork s.free := rfl
@[simp] theorem abandonJob_mem (r : Run) (s : State) : (abandonJob r s).mem = landedMem s.free (containerSize s.act.dst) s.mem r.writes := rfl
@[simp] theorem abandonJob_host (r : Run) (s : State) : (abandonJob r s).host = s.host := rfl
@[simp] theorem abandonJob_turns (r : Run) (s : State) : (abandonJob r s).turns = s.turns := rfl
@[simp] theorem abandonJob_hostData (r : Run) (s : State) : (abandonJob r s).hostData = s.hostData := rfl
@[simp] theorem abandonJob_busFail (r : Run) (s : State) : (abandonJob r s).busFail = r.busFail := rfl
@[simp] theorem abandonJob_devices (r : Run) (s : State) : (abandonJob r s).devices = s.devices := rfl
@[simp] theorem abandonJob_free (r : Run) (s : State) : (abandonJob r s).free = s.free + 1 := rfl

/-! ### `popTurn` -/

@[simp] theorem popTurn_inp (s : State) : (s.popTurn).inp = s.inp := rfl
@[simp] theorem popTurn_irqEn (s : State) : (s.popTurn).irqEn = s.irqEn := rfl
@[simp] theorem popTurn_irqStatus (s : State) : (s.popTurn).irqStatus = s.irqStatus := rfl
@[simp] theorem popTurn_errCode (s : State) : (s.popTurn).errCode = s.errCode := rfl
@[simp] theorem popTurn_errInfo (s : State) : (s.popTurn).errInfo = s.errInfo := rfl
@[simp] theorem popTurn_rngOut (s : State) : (s.popTurn).rngOut = s.rngOut := rfl
@[simp] theorem popTurn_qrsOut (s : State) : (s.popTurn).qrsOut = s.qrsOut := rfl
@[simp] theorem popTurn_gainLo (s : State) : (s.popTurn).gainLo = s.gainLo := rfl
@[simp] theorem popTurn_gainHi (s : State) : (s.popTurn).gainHi = s.gainHi := rfl
@[simp] theorem popTurn_offLo (s : State) : (s.popTurn).offLo = s.offLo := rfl
@[simp] theorem popTurn_offHi (s : State) : (s.popTurn).offHi = s.offHi := rfl
@[simp] theorem popTurn_patOut (s : State) : (s.popTurn).patOut = s.patOut := rfl
@[simp] theorem popTurn_edDiscard (s : State) : (s.popTurn).edDiscard = s.edDiscard := rfl
@[simp] theorem popTurn_edSlots (s : State) : (s.popTurn).edSlots = s.edSlots := rfl
@[simp] theorem popTurn_cfgValid (s : State) : (s.popTurn).cfgValid = s.cfgValid := rfl
@[simp] theorem popTurn_act (s : State) : (s.popTurn).act = s.act := rfl
@[simp] theorem popTurn_pat (s : State) : (s.popTurn).pat = s.pat := rfl
@[simp] theorem popTurn_vacRank (s : State) : (s.popTurn).vacRank = s.vacRank := rfl
@[simp] theorem popTurn_ostroTab (s : State) : (s.popTurn).ostroTab = s.ostroTab := rfl
@[simp] theorem popTurn_acc (s : State) : (s.popTurn).acc = s.acc := rfl
@[simp] theorem popTurn_latch (s : State) : (s.popTurn).latch = s.latch := rfl
@[simp] theorem popTurn_work (s : State) : (s.popTurn).work = s.work := rfl
@[simp] theorem popTurn_mem (s : State) : (s.popTurn).mem = s.mem := rfl
@[simp] theorem popTurn_host (s : State) : (s.popTurn).host = s.host := rfl
@[simp] theorem popTurn_turns (s : State) : (s.popTurn).turns = s.turns.tail := rfl
@[simp] theorem popTurn_hostData (s : State) : (s.popTurn).hostData = s.hostData := rfl
@[simp] theorem popTurn_busFail (s : State) : (s.popTurn).busFail = s.busFail := rfl
@[simp] theorem popTurn_devices (s : State) : (s.popTurn).devices = s.devices := rfl
@[simp] theorem popTurn_free (s : State) : (s.popTurn).free = s.free := rfl

end Sys2Proof.Machine
end

