-- ==== Sys2Proof/Laws/Step.lean ====
section
/-! SUPPORT. What one step of the machine, one operation of HOST and one command can do: the inversion lemmas that later
proofs cite instead of unfolding the definitions. -/

namespace Sys2Proof.Machine

/-- What a step can do: HOST moves (with an empty latch, or in its turn), or SEQ runs the latched command, or the latch
holds no command. -/
theorem step_cases (s : State) :
    (s.latch = none ∧ step s = hostMove s) ∨
    (∃ l, s.latch = some l ∧ hostMovesFirst s = true ∧ step s = hostMove s.popTurn) ∨
    (∃ l i, s.latch = some l ∧ hostMovesFirst s = false ∧ decode l.word = .command i ∧ step s = exec i s.popTurn) ∨
    ∃ l w, s.latch = some l ∧ hostMovesFirst s = false ∧ decode l.word = .illegal w ∧
      step s = .fault .latchHoldsNoCommand := by
  unfold step
  cases hl : s.latch with
  | none => exact Or.inl ⟨rfl, rfl⟩
  | some l =>
    cases hh : hostMovesFirst s with
    | true => exact Or.inr (Or.inl ⟨l, rfl, rfl, by simp⟩)
    | false =>
      cases hd : decode l.word with
      | command i => exact Or.inr (Or.inr (Or.inl ⟨l, i, rfl, rfl, hd, by simp [hd]⟩))
      | illegal w => exact Or.inr (Or.inr (Or.inr ⟨l, w, rfl, rfl, hd, by simp [hd]⟩))

/-- What HOST's move can do: nothing, or its next operation. -/
theorem hostMove_cases (s : State) :
    (s.host = [] ∧ hostMove s = .next s) ∨
      ∃ op rest, s.host = op :: rest ∧ hostMove s = hostOperation op { s with host := rest } := by
  unfold hostMove
  cases s.host with
  | nil => exact Or.inl ⟨rfl, rfl⟩
  | cons op rest => exact Or.inr ⟨op, rest, rfl, rfl⟩

/-- What a poll of WAIT does: STATUS is read, and WAIT comes again while BUSY reads 1 (30_encoding R121). -/
theorem pollStatus_eq (s : State) :
    pollStatus s = { s with
      hostData := readRegister 0x04 s
      host := if s.busy then .wait :: s.host else s.host } := by
  unfold pollStatus recordRead
  cases s.busy <;> rfl

/-- What a submission does (46_engine R310). -/
theorem submit_cases (w : Word) (s : State) :
    (s.busy = true ∧ submit w s = raiseError .cmdBusy w s) ∨
    (s.busy = false ∧ (∃ v, decode w = .illegal v) ∧ submit w s = raiseError .cmdIllegal w s) ∨
    (s.busy = false ∧ ∃ i, decode w = .command i ∧
      submit w s = { s with latch := some { word := w, regs := s.inp } }) := by
  unfold submit
  cases hb : s.busy with
  | true => exact Or.inl ⟨rfl, rfl⟩
  | false =>
    cases hd : decode w with
    | illegal v => exact Or.inr (Or.inl ⟨rfl, ⟨v, rfl⟩, rfl⟩)
    | command i => exact Or.inr (Or.inr ⟨rfl, i, rfl, rfl⟩)

/-- What a command that needs a configuration does (60_exceptions R365). -/
theorem whenConstructed_cases (i : Instr) (s t : State) :
    (s.cfgValid = true ∧ whenConstructed i s t = .next (succeed t)) ∨
      (s.cfgValid = false ∧ whenConstructed i s t = .next (failWith .notConstructed (s.commandWord i) s)) := by
  unfold whenConstructed
  cases s.cfgValid with
  | true => exact Or.inl ⟨rfl, rfl⟩
  | false => exact Or.inr ⟨rfl, rfl⟩

/-- What PROCESS_PLANE can do (46_engine R316). -/
theorem execProcessPlane_cases (s : State) :
    (∃ e info, planJob s = .reject e info ∧ execProcessPlane s = .next (failWith e info s)) ∨
    (planJob s = .empty ∧ execProcessPlane s = .next (succeed s)) ∨
    (∃ r, planJob s = .refuse r ∧ execProcessPlane s = .refused r) ∨
    (∃ j r, planJob s = .run j ∧ runJob s j = .ok r ∧ execProcessPlane s = .next (succeed (finishJob r s))) ∨
    ∃ j b, planJob s = .run j ∧ runJob s j = .error b ∧
      execProcessPlane s = .next (failWith .busError b.addr (abandonJob b.run s)) := by
  unfold execProcessPlane
  cases hp : planJob s with
  | reject e info => exact Or.inl ⟨e, info, rfl, rfl⟩
  | empty => exact Or.inr (Or.inl ⟨rfl, rfl⟩)
  | refuse r => exact Or.inr (Or.inr (Or.inl ⟨r, rfl, rfl⟩))
  | run j =>
    cases hr : runJob s j with
    | ok r => exact Or.inr (Or.inr (Or.inr (Or.inl ⟨j, r, rfl, hr, by simp [hr]⟩)))
    | error b => exact Or.inr (Or.inr (Or.inr (Or.inr ⟨j, b, rfl, hr, by simp [hr]⟩)))

/-- A job runs when every check of 46_engine R316 passes and no case of 20_memory R88 or R95 holds. -/
theorem planJob_run_iff (s : State) (j : JobLatch) :
    planJob s = .run j ↔
      j = jobOf s.operands ∧ s.cfgValid = true ∧ j.plane < s.act.count ∧
      (usesAccumulator s.act.routine = true → j.width ≤ 8192) ∧
      aligned j.srcBase j.srcStride (containerSize s.act.src) = true ∧
      aligned j.dstBase j.dstStride (containerSize s.act.dst) = true ∧ j.width ≠ 0 ∧ j.height ≠ 0 ∧
      ((sourcePlane s.act j).meets (destPlane s.act j) = true → inPlaceCopy s.act j = true) ∧
      (sourcePlane s.act j).onDevice s.devices = false ∧ (destPlane s.act j).onDevice s.devices = false := by
  unfold planJob
  constructor
  · intro h
    simp only at h
    split_ifs at h with h1 h2 h3 h4 h5 h6 h7
    cases h
    simp only [Bool.not_eq_false, not_le, not_and, not_lt, Bool.and_eq_true, not_or, Bool.not_eq_true,
      Bool.or_eq_true, Bool.and_eq_false_iff, Bool.not_eq_false'] at h1 h2 h3 h4 h5 h6 h7
    exact ⟨rfl, h1, h2, h3, h4.1, h4.2, h5.1, h5.2, h6, by simpa using h7.1, by simpa using h7.2⟩
  · rintro ⟨rfl, h1, h2, h3, h4, h5, h6, h7, h8, h9, h10⟩
    simp only
    rw [if_neg (by simp [h1]), if_neg (by omega), if_neg (by rintro ⟨a, b⟩; have := h3 a; simp [Config.maxW] at b; omega),
      if_neg (by rw [Bool.not_eq_false, Bool.and_eq_true]; exact ⟨h4, h5⟩), if_neg (by omega), if_neg ?_,
      if_neg (by simp [h9, h10])]
    · intro hc
      simp only [Bool.and_eq_true, Bool.not_eq_true'] at hc
      rw [h8 hc.1] at hc
      exact absurd hc.2 (by decide)

/-- The job that runs fits its registers. -/
theorem planJob_run_bounds {s : State} {j : JobLatch} (h : planJob s = .run j) :
    j.width < 65536 ∧ j.height < 65536 ∧ j.plane < 4 := by
  obtain ⟨rfl, -⟩ := (planJob_run_iff s j).1 h
  exact jobOf_bounds _

/-- The finish of a job changes memory, the failures to come, the working state, the accumulator, RNG_STATE and the gain
registers only (46_engine R319). -/
theorem finishJob_frame (r : Run) (s : State) :
    finishJob r s = { s with
      mem := r.mem
      busFail := r.busFail
      work := r.work
      acc := r.acc
      gainLo := (finishJob r s).gainLo
      gainHi := (finishJob r s).gainHi
      offLo := (finishJob r s).offLo
      offHi := (finishJob r s).offHi
      inp := { s.inp with rngState := (finishJob r s).inp.rngState } } := by
  unfold finishJob
  cases h1 : usesGain s.act.routine <;> cases h2 : drawsNoise s.act.routine <;> rfl

/-- What CONSTRUCT can do: report the first check that fails, or commit a configuration (46_engine R312). -/
theorem execConstruct_cases (s : State) :
    (∃ e, checkConfig s.operands = .error e ∧ execConstruct s = .next (failWith e 0 s)) ∨
      ∃ a, checkConfig s.operands = .ok a ∧ execConstruct s = .next (succeed (commitConfig a s)) := by
  unfold execConstruct
  cases h : checkConfig s.operands with
  | error e => exact Or.inl ⟨e, rfl, rfl⟩
  | ok a => exact Or.inr ⟨a, rfl, rfl⟩

/-- The checks of CONSTRUCT accept legal configurations only (46_engine R312, R313). -/
theorem checkConfig_ok_legal {r : InputRegs} {a : ActiveConfig} (h : checkConfig r = .ok a) : ConfigLegal a := by
  unfold checkConfig at h
  simp only at h
  split at h
  · cases h
  rename_i m hm
  split_ifs at h with h1 h2 h3
  · split at h <;> cases h
  split at h
  · cases h
  rename_i routine hr
  split at h
  · cases h
  rename_i amps ha
  split at h
  · cases h
  rename_i planes hp
  cases h
  have hcount : 1 ≤ planes.2 ∧ planes.2 ≤ 4 := by
    unfold checkPlanes at hp
    split at hp
    · cases hp
    · split_ifs at hp with hc
      cases hp
      exact hc
  have hamp : amps.1 ≤ 65535 ∧ amps.2 ≤ 65535 := by
    have hof : ∀ {w : Word} {n : Nat}, amplitudeOf w = some n → n ≤ 65535 := by
      intro w n hw
      unfold amplitudeOf at hw
      split_ifs at hw with hc
      cases hw
      omega
    unfold checkAmplitudes at ha
    split at ha
    · cases ha
    rename_i x hx
    split at ha
    · cases ha
    rename_i y hy
    cases ha
    exact ⟨hof hx, hof hy⟩
  refine ⟨by simpa using h1, by simpa using h2, ?_, hcount.1, hcount.2, hamp.1, hamp.2, hr⟩
  simpa using h3

/-- What ED_SPLIT can do (44_error_diffusion R246). -/
theorem execEdSplit_cases (idx : Nat) (s : State) :
    (s.cfgValid = false ∧ execEdSplit idx s = .next (failWith .notConstructed (s.commandWord (.edSplit idx)) s)) ∨
    (s.cfgValid = true ∧ (∀ k, s.act.routine ≠ .errdif k) ∧
      execEdSplit idx s = .next (failWith .wrongRoutine (s.commandWord (.edSplit idx)) s)) ∨
    ∃ k sl, s.cfgValid = true ∧ s.act.routine = .errdif k ∧
      sl = splitError k (ostroEntry s.ostroTab idx) s.operands.edErrIn.toInt ∧
      execEdSplit idx s = .next (succeed { s with
        edSlots := slotRegs sl
        edDiscard := BitVec.ofInt 32 (splitDiscard s.operands.edErrIn.toInt sl) }) := by
  unfold execEdSplit
  cases hc : s.cfgValid with
  | false => exact Or.inl ⟨rfl, rfl⟩
  | true =>
    cases hr : s.act.routine with
    | errdif k => exact Or.inr (Or.inr ⟨k, _, rfl, rfl, rfl, rfl⟩)
    | copy => exact Or.inr (Or.inl ⟨rfl, by simp, rfl⟩)
    | shift => exact Or.inr (Or.inl ⟨rfl, by simp, rfl⟩)
    | floatOut => exact Or.inr (Or.inl ⟨rfl, by simp, rfl⟩)
    | ordered => exact Or.inr (Or.inl ⟨rfl, by simp, rfl⟩)
    | qrs => exact Or.inr (Or.inl ⟨rfl, by simp, rfl⟩)

/-- What HOST's write of a plane-memory byte can do (20_memory R94). -/
theorem hostMemWrite_cases (a : Word) (b : Byte) (s : State) :
    hostMemWrite a b s = .next { s with mem := memSetByte s.mem a b } ∨
      ∃ j, runningPlan s = some (.run j) ∧
        ((sourcePlane s.act j).holds a = true ∨ (destPlane s.act j).holds a = true) ∧
        hostMemWrite a b s = .refused .hostWritesRunningPlane := by
  unfold hostMemWrite
  split
  · rename_i j hj
    split_ifs with h
    · exact Or.inr ⟨j, hj, by simpa using h, rfl⟩
    · exact Or.inl rfl
  · exact Or.inl rfl

/-- What HOST's read of a plane-memory byte can do: with no latched job that is refused, the byte of `hostByte` and no
free value taken. -/
theorem hostMemRead_of_not_refused {a : Word} {fresh : Bool} {s : State} (h : ∀ r, runningPlan s ≠ some (.refuse r)) :
    hostMemRead a fresh s = { s with hostData := (hostByte a fresh s).setWidth 32 } := by
  have hu : readsUnspecified a fresh s = false := by
    unfold readsUnspecified
    split
    · rename_i r hr
      exact absurd hr (h r)
    · rfl
  unfold hostMemRead
  rw [hu]
  rfl

/-- A HOST read that asks for no fresh byte returns the old one, whatever is latched (20_memory R94). -/
theorem hostMemRead_old (a : Word) (s : State) :
    hostMemRead a false s = { s with hostData := (memByte s.mem a).setWidth 32 } := by
  have hu : readsUnspecified a false s = false := by
    unfold readsUnspecified
    split <;> rfl
  have hb : hostByte a false s = memByte s.mem a := by
    unfold hostByte
    rw [hu]
    split <;> rfl
  unfold hostMemRead
  rw [hu, hb]
  rfl

/-- What the reset input can do (70_reset R390). -/
theorem hardReset_cases (done : Nat) (s : State) :
    (∃ j, runningPlan s = some (.run j) ∧ hardReset done s = .next (resetEngine { s with
      mem := (partialRun s j done).mem, busFail := (partialRun s j done).busFail })) ∨
    (∃ r, runningPlan s = some (.refuse r) ∧ hardReset done s = .refused r) ∨
    hardReset done s = .next (resetEngine s) := by
  unfold hardReset
  split
  · rename_i j hj
    exact Or.inl ⟨j, hj, rfl⟩
  · rename_i r hr
    exact Or.inr (Or.inl ⟨r, hr, rfl⟩)
  · exact Or.inr (Or.inr rfl)

end Sys2Proof.Machine
end

