-- ==== Sys2Proof/Laws/Store.lean ====
section
/-! SUPPORT. The pattern store and the accumulator: reading a store that was built cell by cell, its shape, and the lines
that every accumulator operation keeps in range and canonical. -/

namespace Sys2Proof.Machine

/-! ### The pattern store -/

/-- Reading a mapped range. -/
theorem getD_map_range {α : Type} (f : Nat → α) (n i : Nat) (d : α) :
    ((List.range n).map f).getD i d = if i < n then f i else d := by
  by_cases h : i < n
  · simp [List.getD_eq_getElem?_getD, h]
  · simp [List.getD_eq_getElem?_getD, h]

/-- A cell of a store built cell by cell (10_state R53). -/
theorem patCell_patOf (f : Nat → Nat → Nat → PatCell) {k r c : Nat} (hk : k < 4) (hr : r < 32) (hc : c < 32) :
    patCell (patOf f) k r c = f k r c := by
  unfold patCell patOf
  rw [getD_map_range, if_pos hk, getD_map_range, if_pos (by simpa [Config.maxPat] using hr), getD_map_range,
    if_pos (by simpa [Config.maxPat] using hc)]

/-- A store built cell by cell has the shape of 10_state R53. -/
theorem patOf_shaped (f : Nat → Nat → Nat → PatCell) : PatternShaped (patOf f) := by
  refine ⟨by simp [patOf], fun m hm => ?_⟩
  simp only [patOf, List.mem_map, List.mem_range] at hm
  obtain ⟨k, -, rfl⟩ := hm
  refine ⟨by simp [Config.maxPat], fun row hrow => ?_⟩
  simp only [List.mem_map, List.mem_range] at hrow
  obtain ⟨r, -, rfl⟩ := hrow
  simp [Config.maxPat]

/-! ### The accumulator -/

/-- An accumulator of unspecified cells is in shape. -/
theorem anyAccum_shaped (n : Nat) : AccumShaped (anyAccum n) := by
  unfold anyAccum AccumShaped lineWf
  generalize lineCells = c
  exact ⟨cellsWf_cellsOf _ (Nat.le_refl _), cellsWf_cellsOf _ (Nat.le_refl _), cellsWf_cellsOf _ (Nat.le_refl _)⟩

/-- A line of an accumulator in shape. -/
theorem line_wf {a : Accum} (h : AccumShaped a) (j : Nat) : lineWf (a.line j) = true := by
  unfold Accum.line
  split
  · exact h.1
  · exact h.2.1
  · exact h.2.2

/-- Replacing a line by one in range keeps the shape. -/
theorem setLine_shaped {a : Accum} (h : AccumShaped a) (j : Nat) {l : Line} (hl : lineWf l = true) :
    AccumShaped (a.setLine j l) := by
  unfold Accum.setLine
  split
  · exact ⟨hl, h.2.1, h.2.2⟩
  · exact ⟨h.1, hl, h.2.2⟩
  · exact ⟨h.1, h.2.1, hl⟩

/-- A write at a column −2 .. MAX_W + 1 keeps the shape (44_error_diffusion R234). -/
theorem accAdd_shaped {a : Accum} (h : AccumShaped a) (depth r : Nat) {c : Int} (v : Int) (h1 : -2 ≤ c)
    (h2 : c ≤ 8193) : AccumShaped (accAdd depth a r c v) := by
  refine setLine_shaped h _ (cellsWf_cellSet _ (line_wf h _) (Nat.zero_le _) ?_)
  simp only [columnKey, lineCells, Config.maxW, Config.margin]
  omega

/-- Every slot reaches at most two columns to either side (44_error_diffusion R232). -/
theorem slot_dx_bounds {p : (Int × Nat) × Int} {sl : List Int} (h : p ∈ slotPositions.zip sl) :
    -2 ≤ p.1.1 ∧ p.1.1 ≤ 2 := by
  have := (List.of_mem_zip h).1
  revert this
  generalize p.1 = q
  revert q
  unfold slotPositions
  intro q hq
  simp only [List.mem_cons, List.not_mem_nil, or_false] at hq
  rcases hq with rfl | rfl | rfl | rfl | rfl | rfl | rfl | rfl | rfl | rfl | rfl | rfl <;> decide

/-- Spreading a pixel's error keeps the shape (44_error_diffusion R247, boundary safety). -/
theorem accSpread_shaped {a : Accum} (h : AccumShaped a) (depth : Nat) (dir : Dir) {x y : Nat} (hx : x < 8192)
    {l : List ((Int × Nat) × Int)} (hl : ∀ p ∈ l, -2 ≤ p.1.1 ∧ p.1.1 ≤ 2) :
    AccumShaped (accSpread depth dir x y l a) := by
  unfold accSpread
  induction l generalizing a with
  | nil => exact h
  | cons p t ih =>
    rw [List.foldl_cons]
    refine ih ?_ (fun q hq => hl q (List.mem_cons_of_mem _ hq))
    have hp := hl p List.mem_cons_self
    split
    · have hd : dirSign dir = 1 ∨ dirSign dir = -1 := by cases dir <;> simp [dirSign]
      rcases hd with hd | hd <;> rw [hd] <;> exact accAdd_shaped h _ _ _ (by omega) (by omega)
    · exact h

/-- A pixel's diffusion keeps the shape. -/
theorem accDiffuse_shaped {a : Accum} (h : AccumShaped a) (depth : Nat) (dir : Dir) {x y : Nat} (sl : List Int)
    (hx : x < 8192) : AccumShaped (accDiffuse depth dir x y sl a) := by
  unfold accDiffuse
  refine accSpread_shaped ?_ depth dir hx (fun _ hp => slot_dx_bounds hp)
  exact h

/-- A row's end keeps the shape. -/
theorem accAtRowEnd_shaped {a : Accum} (h : AccumShaped a) (routine : Routine) (y : Nat) :
    AccumShaped (accAtRowEnd routine y a) := by
  unfold accAtRowEnd
  split
  · unfold accRowEnd
    have := setLine_shaped h (y % (kernelDepth ‹Kernel› + 1)) (l := []) rfl
    split
    · exact this
    · exact this
  all_goals exact h

/-- A step of a job keeps the accumulator in shape, if the accumulator holds the job's width (46_engine R316). -/
theorem jobStep_accumShaped {s : State} {m : JobStep} {r r' : Run} (h : jobStep s m r = .ok r')
    (hw : ∀ x y, m = .pixel x y → usesAccumulator s.act.routine = true → x < 8192) (ha : AccumShaped r.acc) :
    AccumShaped r'.acc := by
  cases m with
  | rowStart y => cases h; exact ha
  | rowEnd y => cases h; exact accAtRowEnd_shaped ha _ _
  | pixel x y =>
    obtain ⟨f, g, -, -, rfl⟩ := pixelStep_ok h
    rcases pixelValue_acc s x y (memRead r.mem ((sourcePlane s.act r.work.j).addr x y)
      (sourcePlane s.act r.work.j).size) (pixelRun x y f r) with he | ⟨k, sl, hk, he⟩
    · show AccumShaped (pixelResult s x y f r).2.acc
      rw [show (pixelResult s x y f r).2.acc = r.acc from he]
      exact ha
    · show AccumShaped (pixelResult s x y f r).2.acc
      rw [show (pixelResult s x y f r).2.acc = _ from he]
      exact accDiffuse_shaped ha _ _ _ (hw x y rfl (by rw [hk]; rfl))

end Sys2Proof.Machine
end

