-- ==== Sys2Proof/Tests/Slice0.lean ====
section
/-! SUPPORT. The model's own tests: ill-formed commands that WellFormed refuses, command words written out from the spec,
one-step tests whose values come from 95_test_vectors.md, and for each obligation with hypotheses a state that meets
them. -/

namespace Sys2Proof.Tests

open Sys2Proof.Machine Sys2Proof.Claims

/-! ### WellFormed refuses each ill-formed command (30_encoding R113) -/

theorem test_illFormed_qrsSeed_y : (Instr.qrsSeed 65536).wellFormed = false := by decide
theorem test_illFormed_patRead_px : (Instr.patRead 32 0 0).wellFormed = false := by decide
theorem test_illFormed_patRead_py : (Instr.patRead 0 32 0).wellFormed = false := by decide
theorem test_illFormed_patRead_rot : (Instr.patRead 0 0 4).wellFormed = false := by decide
theorem test_illFormed_edSplit_idx : (Instr.edSplit 256).wellFormed = false := by decide

/-! ### Words written from the encodings of 30_encoding R112 and R114, and 95_test_vectors §2.6 -/

theorem test_decode_nop : decode 0b00000000000000000000000000000000 = .command .nop := by decide
theorem test_decode_construct : decode 0b00000000000000000000000000000001 = .command .construct := by decide
theorem test_decode_processPlane : decode 0b00000000000000000000000000000010 = .command .processPlane := by decide
theorem test_decode_softReset : decode 0b00000000000000000000000000000011 = .command .softReset := by decide
theorem test_decode_rngStep : decode 0b00000000000000000000000000010000 = .command .rngStep := by decide
theorem test_decode_rngEol : decode 0b00000000000000000000000000010001 = .command .rngEol := by decide
theorem test_decode_rngSeed : decode 0b00000000000000000000000000010010 = .command .rngSeed := by decide
theorem test_decode_qrsSeed : decode 0b00000000100000000000000100100000 = .command (.qrsSeed 0x8001) := by decide
theorem test_decode_qrsNext : decode 0b00000000000000000000000000100001 = .command .qrsNext := by decide
theorem test_decode_patRead : decode 0b00000010000100110000010100110000 = .command (.patRead 5 19 2) := by decide
theorem test_decode_gainQuery : decode 0b00000000000000000000000001000000 = .command .gainQuery := by decide
theorem test_decode_edSplit : decode 0b00000000000000001100100001010000 = .command (.edSplit 200) := by decide
theorem test_decode_reserved_bits : decode 0x03FF1F30 = .command (.patRead 31 31 3) ∧
    decode 0xFFFFFF00 = .command .nop ∧ decode 0x12345610 = .command .rngStep := by decide
theorem test_decode_illegal : decode 0x00000004 = .illegal 0x00000004 ∧ decode 0xFFFFFFFF = .illegal 0xFFFFFFFF := by
  decide
theorem test_decodeTableWord : decodeTableWord 8 0x50 = some (.edSplit 0) ∧ decodeTableWord 32 0xC850 = some (.edSplit 200) ∧
    decodeTableWord 8 0x04 = none := by decide

/-! ### Small states -/

/-- The state an outcome goes on with; the reset state where it stops. -/
def after (o : Host.Outcome State Fault Refusal) : State :=
  match o with
  | .next s => s
  | .fault _ => State.reset
  | .refused _ => State.reset

/-- Whether an outcome goes on. -/
def goesOn (o : Host.Outcome State Fault Refusal) : Bool :=
  match o with
  | .next _ => true
  | .fault _ => false
  | .refused _ => false

theorem next_of_goesOn {o : Host.Outcome State Fault Refusal} (h : goesOn o = true) : ∃ t, o = .next t := by
  cases o with
  | next t => exact ⟨t, rfl⟩
  | fault f => cases h
  | refused r => cases h

/-- 16-bit full range. -/
def int16 : Format := { bits := 16, float := false, full := true }

/-- 8-bit full range. -/
def int8 : Format := { bits := 8, float := false, full := true }

/-- binary32. -/
def float32 : Format := { bits := 32, float := true, full := false }

/-- A configuration of one GRAY plane at amplitude 1.0 without noise (95_test_vectors, "standard" values). -/
def config (src dst : Format) (m : Mode) (r : Routine) : ActiveConfig :=
  { blankConfig with src := src, dst := dst, mode := m, side := 1, count := 1, ampo := 256, routine := r }

/-- The standard 16 → 8 Floyd-Steinberg configuration of 95_test_vectors. -/
def fsConfig : ActiveConfig := config int16 int8 (.diffuse .floydSteinberg) (.errdif .floydSteinberg)

/-- A state with an active configuration. -/
def configured (a : ActiveConfig) : State := { State.reset with cfgValid := true, act := a }

/-- The registers and memory of program P3: a 2 × 2 plane at 0x1000, destination at 0x2000, strides 4 and 8. -/
def jobState (a : ActiveConfig) : State :=
  { configured a with
    inp := { InputRegs.reset with
      jobSrcBase := 0x1000, jobSrcStride := 4, jobDstBase := 0x2000, jobDstStride := 8, jobWidth := 2, jobHeight := 2 }
    mem := [(0x1000, 0x34), (0x1001, 0x12), (0x1002, 0xFF), (0x1003, 0xFF), (0x1007, 0x80)] }

/-- The staging registers of 95_test_vectors §2.7, with the mode and destination format of a row. -/
def staged (mode dst : Word) : State :=
  { State.reset with inp := { InputRegs.reset with
      cfgSrcFmt := 0x210, cfgDstFmt := dst, cfgMode := mode, cfgPlanes := 0x10, cfgAmpo := 0x100 } }

/-- A latch that holds the word with the registers as they are in `s`. -/
def latched (w : Word) (s : State) : State := { s with latch := some { word := w, regs := s.inp } }

/-- Legal tables written out: ranks in order, and (1, 0, 0) everywhere. -/
def plainTables (s : State) : State :=
  { s with
    vacRank := Config.patternSides.map fun side => List.range (side * side)
    ostroTab := List.replicate 256 { c0 := 1, c1 := 0, c2 := 0 } }

/-- One configuration for each routine. -/
def copyConfig : ActiveConfig := config int8 int8 .bayer .copy
/-- SHIFT. -/
def shiftConfig : ActiveConfig := config int16 int8 .fast .shift
/-- FLOAT_OUT. -/
def floatConfig : ActiveConfig := config int16 float32 .qrs .floatOut
/-- ORDERED. -/
def orderedConfig : ActiveConfig := { config int16 int8 .bayer .ordered with ampn := 256, dyn := true }
/-- QRS. -/
def qrsConfig : ActiveConfig := { config int16 int8 .qrs .qrs with tpdfOut := true }

/-! ### One step, one command -/

theorem test_nop_sets_done : (after (step (State.reset.withFetchWord 32 0x00))).irqStatus = 0x1 := by decide
theorem test_step_runs_fetched_word : (after (step (State.reset.withFetchWord 8 0x10))).inp.rngState = 0x3C6EF35F := by
  decide
theorem test_rngStep_out : (after (exec .rngStep { State.reset with inp := { InputRegs.reset with
    rngState := 0x80000000 } })).rngOut = 0xFFFFFFBC := by decide
theorem test_rngEol_extra_step : (after (exec .rngEol { State.reset with inp := { InputRegs.reset with
    rngState := 0x00000002 } })).inp.rngState = 0x2C15CD60 := by decide
theorem test_rngEol_no_extra_step : (after (exec .rngEol { State.reset with inp := { InputRegs.reset with
    rngState := 0x47502932 } })).inp.rngState = 0x585AF683 := by decide
theorem test_rngSeed_static : (after (exec .rngSeed { configured { fsConfig with static := true } with
    inp := { InputRegs.reset with jobFrame := 5, jobPlane := 2 } })).inp.rngState = 0x4B2C8F31 := by decide
theorem test_rngSeed_not_constructed :
    (after (step (State.reset.withFetchWord 32 0x12))).errCode = 0x22 ∧
    (after (step (State.reset.withFetchWord 32 0x12))).errInfo = 0x12 := by decide
theorem test_qrsSeed_terms : (after (exec (.qrsSeed 3) { configured { fsConfig with dyn := true } with
    inp := { InputRegs.reset with jobFrame := 7, jobPlane := 2 } })).inp.qrsPhase = 0xB3D227AB := by decide
theorem test_qrsSeed_last_row : (after (exec (.qrsSeed 65535) (configured fsConfig))).inp.qrsPhase = 0x7BC4F25A := by
  decide
theorem test_qrsNext_fold : (after (exec .qrsNext { State.reset with inp := { InputRegs.reset with
    qrsPhase := 0xC0000000 } })).qrsOut = 0xFFFFFFFF := by decide
theorem test_qrsNext_advance : (after (exec .qrsNext State.reset)).inp.qrsPhase = 0xC13FA9A9 ∧
    (after (exec .qrsNext State.reset)).qrsOut = 0xFFFFFF80 := by decide
theorem test_patRead_wraps : (after (exec (.patRead 5 6 0) (after (exec .construct (staged 0x402 0x208))))).patOut = 48 := by
  decide +kernel
theorem test_patRead_rotated :
    (after (exec (.patRead 31 31 3) (after (exec .construct (staged 0x402 0x208))))).patOut = 112 := by decide +kernel
theorem test_construct_status : (after (exec .construct (staged 0x105 0x208))).statusWord = 0x602 := by decide
theorem test_construct_first_error :
    (after (exec .construct { staged 0x100 0x008 with inp := { (staged 0x100 0x008).inp with cfgPlanes := 0x50 } })).errCode =
      0x03 := by decide
theorem test_gainQuery_signs : (after (exec .gainQuery (configured (config { int8 with full := false } int8 .flat
    .ordered)))).offLo = 0x5EAF57AC ∧ (after (exec .gainQuery (configured (config { int8 with full := false } int8 .flat
    .ordered)))).gainLo = 0x2A150A85 := by decide +kernel
theorem test_edSplit_remainder : ((after (exec (.edSplit 0) { configured fsConfig with inp := { InputRegs.reset with
    edErrIn := 0xFFFFFC18 } })).edSlots.toList.take 5).map BitVec.toInt = [-438, 0, 0, -250, -312] := by decide +kernel
theorem test_edSplit_discard : (after (exec (.edSplit 0) { configured { fsConfig with routine := .errdif .atkinson } with
    inp := { InputRegs.reset with edErrIn := 21 } })).edDiscard = 3 := by decide +kernel
theorem test_processPlane_p3 : (List.range 10).map (fun i =>
    (memByte (after (exec .processPlane (jobState fsConfig))).mem (BitVec.ofNat 32 (0x2000 + i))).toNat) =
      [18, 255, 0, 0, 0, 0, 0, 0, 0, 128] := by decide +kernel
theorem test_processPlane_noise_state :
    (after (exec .processPlane (jobState fsConfig))).inp.rngState = 0xADC7906B := by decide +kernel
theorem test_softReset_clears : (after (exec .softReset { configured fsConfig with irqStatus := 0x3, errInfo := 7 })).irqStatus
    = 0 ∧ (after (exec .softReset { configured fsConfig with irqStatus := 0x3, errInfo := 7 })).statusWord = 0 := by decide

/-! ### HOST -/

theorem test_reset_memory_canonical : Memory.wf State.reset.mem = true := by decide
theorem test_illegal_word_is_reported :
    (after (hostOperation (.write 0x08 32 0x00000004) State.reset)).errCode = 0x20 := by decide
theorem test_reserved_bits_are_dropped :
    readRegister 0x28 (after (hostOperation (.write 0x28 32 0xFFFFFFFF) State.reset)) = 0x001F3F0F := by decide
theorem test_caps_and_id : readRegister 0x1C State.reset = 0x01202000 ∧ readRegister 0x00 State.reset = 0x464D5431 := by
  decide
theorem test_float_rounding : roundToFloat (128 * 16843009) = 0x3F008080 ∧ roundToFloat (-(2 ^ 31)) = 0xBF000000 := by
  decide
theorem test_tpdf_remap : [-128, -127, -96, 32, 112, 127].map tpdfRemap = [-256, -238, -123, 33, 155, 238] := by decide

/-! ### Witnesses: for each obligation with hypotheses, states and operands that meet them -/

theorem test_witness_DecodeOfEncodeIsTheCommand : (Instr.patRead 31 31 3).wellFormed = true ∧
    (Instr.qrsSeed 65535).wellFormed = true ∧ (Instr.edSplit 255).wellFormed = true := by decide

theorem test_witness_DecoderIsTotalAndIgnoresReservedBits :
    (0x00000051 : Word).toNat % 256 ∉ legalOpcodes ∧ (0xFFFFAB50 : Word).toNat % 256 ∈ legalOpcodes ∧
    decode 0xFFFFAB50 = .command (.edSplit 0xAB) ∧
    (0x0000AB50 : Word) &&& usedBits (.edSplit 0xAB) = 0xFFFFAB50 &&& usedBits (.edSplit 0xAB) := by decide

theorem test_witness_LegalFormatWordsAreTheListed :
    (0x320 : Word) &&& ~~~formatMask = 0 ∧ (0x20D : Word) &&& ~~~formatMask = 0 := by decide

theorem test_witness_StepRunsTheLatchedCommand :
    (latched 0x50 { State.reset with host := [.wait], turns := [.seq] }).latch =
      some { word := 0x50, regs := InputRegs.reset } ∧
    hostMovesFirst (latched 0x50 { State.reset with host := [.wait], turns := [.seq] }) = false ∧
    decode 0x50 = .command (.edSplit 0) ∧ (Instr.edSplit 255).wellFormed = true := by decide

theorem test_witness_hostActs : HostActs { State.reset with host := [.wait] } ∧
    HostActs (latched 0x50 { State.reset with host := [.wait], turns := [.host] }) ∧
    (latched 0x50 { State.reset with host := [.wait], turns := [.host] }).host = [.wait] ∧
    State.reset.latch = none ∧ State.reset.host = [] :=
  ⟨Or.inl rfl, Or.inr ⟨rfl, by decide⟩, rfl, rfl, rfl⟩

theorem test_witness_SubmissionFollowsBusyAndDecode :
    (latched 0x02 State.reset).latch ≠ none ∧ State.reset.latch = none ∧ (0xFF : Word).toNat % 256 ∉ legalOpcodes ∧
    (0xFFFFFF50 : Word).toNat % 256 ∈ legalOpcodes := by decide

theorem test_witness_EveryCommandSucceedsOrRecordsOneError :
    Instr.rngStep ≠ .softReset ∧ (∃ t, exec .rngStep State.reset = .next t) ∧
    (∃ t, exec .construct State.reset = .next t ∧ t.errCode = 0x02 ∧ t.errCode ≠ 0x22 ∧ t.errCode ≠ 0x23) ∧
    (∃ l t, (latched 0xFF12 State.reset).latch = some l ∧ exec .rngSeed (latched 0xFF12 State.reset) = .next t ∧
      t.errCode = 0x22 ∧ t.errInfo = 0xFF12) ∧
    ∃ t, exec .processPlane { jobState fsConfig with busFail := [3] } = .next t :=
  ⟨by decide, ⟨_, rfl⟩, ⟨_, rfl, by decide, by decide, by decide⟩, ⟨_, _, rfl, rfl, by decide, by decide⟩,
    next_of_goesOn (by decide +kernel)⟩

/-- A job whose destination is its source, one row lower. -/
def overlapping : State :=
  { jobState fsConfig with inp := { (jobState fsConfig).inp with jobDstBase := 0x1004 } }

/-- A job whose destination lies, with its last byte, on a device region. -/
def onDevice : State := { jobState fsConfig with devices := [(0x2009, 4)] }

theorem overlapping_refused : exec .processPlane overlapping = .refused .planesOverlap := by
  show execProcessPlane overlapping = _
  rw [execProcessPlane, show planJob overlapping = .refuse .planesOverlap by decide +kernel]

theorem onDevice_refused : exec .processPlane onDevice = .refused .planeOnDevice := by
  show execProcessPlane onDevice = _
  rw [execProcessPlane, show planJob onDevice = .refuse .planeOnDevice by decide +kernel]

theorem test_witness_OnlyRefusedJobsStop : exec .processPlane overlapping = .refused .planesOverlap ∧
    exec .processPlane onDevice = .refused .planeOnDevice := ⟨overlapping_refused, onDevice_refused⟩

theorem test_witness_LatchedOperandsDecideTheOutcome :
    (latched 0x02 (jobState fsConfig)).latch = some { word := 0x02, regs := (jobState fsConfig).inp } ∧
    (∃ t, exec .processPlane (latched 0x02 (jobState fsConfig)) = .next t) ∧
    exec .processPlane (latched 0x02 overlapping) = .refused .planesOverlap ∧ State.reset.latch = none ∧
    (∃ l t, (latched 0x12 State.reset).latch = some l ∧ exec .rngSeed (latched 0x12 State.reset) = .next t ∧
      t.irqStatus ≠ State.reset.irqStatus ||| 0x1) ∧
    ∃ t, exec .processPlane (latched 0x02 (jobState copyConfig)) = .next t := by
  refine ⟨rfl, next_of_goesOn (by decide +kernel), ?_, rfl, ⟨_, _, rfl, rfl, by decide⟩,
    next_of_goesOn (by decide +kernel)⟩
  show execProcessPlane (latched 0x02 overlapping) = _
  rw [execProcessPlane, show planJob (latched 0x02 overlapping) = .refuse .planesOverlap by decide +kernel]

theorem test_witness_WindowAccessesDoWhatTheirRegisterSays :
    (0xFC < 256 ∧ 0xFC % 4 = 0) ∧ (0x08 < 256 ∧ 0x08 % 4 = 0) ∧ (0x14 ∈ rwOffsets ∧ 0x84 ∈ rwOffsets) ∧
    (0x04 ≠ 0x08 ∧ 0x04 ≠ 0x18 ∧ 0x04 ∉ rwOffsets) ∧ 0x18 ≠ 0x14 ∧ (0x00, 0x464D5431) ∈ shownRegisters State.reset ∧
    (0xBC, 0) ∈ shownRegisters State.reset ∧ (0xFC, 0) ∈ shownRegisters State.reset := by decide

/-- Offsets of 30_encoding R110 that show registers of one shape, told apart. -/
theorem test_offsets_told_apart :
    [0x70, 0x74, 0x78, 0x7C, 0x64, 0x6C, 0x80, 0x88].map (fun off => readRegister off { State.reset with
      gainLo := 1, gainHi := 2, offLo := 3, offHi := 4, rngOut := 5, qrsOut := 6, patOut := 7, edDiscard := 8 }) =
    [1, 2, 3, 4, 5, 6, 7, 8] := by decide

theorem test_offsets_written :
    let r := (writeRegister 0x54 6 (writeRegister 0x50 5 (writeRegister 0x4C 4 (writeRegister 0x48 3 (writeRegister 0x44 2
      (writeRegister 0x40 1 State.reset)))))).inp
    [r.jobSrcBase, r.jobSrcStride, r.jobDstBase, r.jobDstStride, r.jobWidth, r.jobHeight] = [1, 2, 3, 4, 5, 6] := by decide

theorem test_witness_MeaninglessWindowAccessesAreRefused :
    256 ≤ 256 ∧ (255 < 256 ∧ 255 % 4 ≠ 0) ∧ 252 < 256 ∧ (31 : Nat) ≠ 32 := by decide

/-- No reserved bit is set after reset. -/
theorem reset_reservedClear : ReservedClear State.reset :=
  ⟨⟨by decide, by decide, by decide, by decide, by decide, by decide, by decide⟩, by decide, by decide, by
    intro l h; cases h⟩

theorem test_witness_ReservedSpaceReadsZero : ReservedClear State.reset ∧ (0x38 ∈ [0x38, 0x3C, 0x8C]) ∧ 0xC0 ≤ 0xC0 :=
  ⟨reset_reservedClear, by decide, by decide⟩

theorem test_witness_StatusShowsLatchAndConfiguration :
    State.reset.cfgValid = false ∧ (configured copyConfig).cfgValid = true ∧ copyConfig.routine = .copy ∧
    shiftConfig.routine = .shift ∧ floatConfig.routine = .floatOut ∧ orderedConfig.routine = .ordered ∧
    qrsConfig.routine = .qrs ∧ ∃ k, fsConfig.routine = .errdif k :=
  ⟨rfl, rfl, rfl, rfl, rfl, rfl, rfl, _, rfl⟩

theorem test_wait_polls_status :
    (after (hostOperation .wait (latched 0x02 (configured fsConfig)))).host = [.wait] ∧
    (after (hostOperation .wait (latched 0x02 (configured fsConfig)))).hostData = 0x603 ∧
    (after (hostOperation .wait (configured fsConfig))).host = [] ∧
    (after (hostOperation .wait (configured fsConfig))).hostData = 0x602 := by decide

/-! Jobs -/

/-- A job that `planJob` runs is accepted. -/
theorem accepted_of_plan {s : State} (h : planJob s = .run (jobOf s.operands)) : JobAccepted s (jobOf s.operands) := by
  obtain ⟨-, h1, h2, h3, h4, h5, h6, h7, h8, h9, h10⟩ := (planJob_run_iff s _).1 h
  have hb := jobOf_bounds s.operands
  have hs := containerSize_le s.act.src
  have hd := containerSize_le s.act.dst
  simp only [aligned, Bool.and_eq_true, decide_eq_true_eq] at h4 h5
  refine ⟨⟨rfl, h1, h2, ?_, ⟨h4.1, h4.2, h5.1, h5.2⟩, by omega, by omega⟩, ?_, h9, h10⟩
  · rintro ⟨k, hk⟩
    exact h3 (by rw [hk]; rfl)
  · intro hsh
    have := h8 ((meets_iff (by show (jobOf s.operands).width * containerSize s.act.src < 2 ^ 32; nlinarith)
      (by show (jobOf s.operands).width * containerSize s.act.dst < 2 ^ 32; nlinarith)).2 hsh)
    simp only [inPlaceCopy, Bool.and_eq_true, beq_iff_eq] at this
    exact ⟨this.1.1, this.1.2, this.2⟩

/-- Whether no two spans of a plane's samples meet. -/
def spansApart (p : Plane) : Bool :=
  (List.range p.width).all fun x => (List.range p.height).all fun y =>
    (List.range p.width).all fun x' => (List.range p.height).all fun y' =>
      decide ((x, y) = (x', y')) || !spansMeet (p.addr x y).toNat p.size (p.addr x' y').toNat p.size

/-- Then no two samples share a byte. -/
theorem apart_of_spans {p : Plane} (hz : p.size < 2 ^ 32) (h : spansApart p = true) : SamplesApart p := by
  intro x y x' y' hx hy hx' hy' hne a ha
  have hm := (spansMeet_iff (p.addr x y).isLt (p.addr x' y').isLt hz hz).2 ⟨a.toNat, a.isLt, ha.1, ha.2⟩
  simp only [spansApart, List.all_eq_true, List.mem_range] at h
  have := h x hx y hy x' hx' y' hy'
  rw [hm] at this
  simp only [Bool.not_true, Bool.or_false, decide_eq_true_eq] at this
  exact hne this

/-- Whether no later row's sample meets sample (x, y). -/
def lastSpan (p : Plane) (x y : Nat) : Bool :=
  (List.range p.width).all fun x' => (List.range p.height).all fun y' =>
    decide (y' ≤ y) || !spansMeet (p.addr x y).toNat p.size (p.addr x' y').toNat p.size

/-- Then no later row writes it. -/
theorem lastWritten_of_span {p : Plane} {x y : Nat} (hz : p.size < 2 ^ 32) (h : lastSpan p x y = true) :
    LastWritten p x y := by
  intro x' y' hx' hy hy' a ha
  have hm := (spansMeet_iff (p.addr x y).isLt (p.addr x' y').isLt hz hz).2 ⟨a.toNat, a.isLt, ha.1, ha.2⟩
  simp only [lastSpan, List.all_eq_true, List.mem_range] at h
  have := h x' hx' y' hy'
  rw [hm] at this
  simp only [Bool.not_true, Bool.or_false, decide_eq_true_eq] at this
  omega

/-- The samples of the last row are written last, whatever the stride. -/
theorem lastWritten_bottom {p : Plane} {x y : Nat} (h : p.height ≤ y + 1) : LastWritten p x y :=
  fun _ _ _ _ _ _ _ => by omega

/-- The in-place COPY. -/
def inPlace : State :=
  { jobState copyConfig with inp := { (jobState copyConfig).inp with jobDstBase := 0x1000, jobDstStride := 4 } }

/-- The job of `jobState` with a destination stride of 0: both rows write the same samples. -/
def sharedRows (a : ActiveConfig) : State :=
  { jobState a with inp := { (jobState a).inp with jobDstStride := 0 } }

theorem accepted_sharedCopy : JobAccepted (sharedRows copyConfig) (jobOf (sharedRows copyConfig).operands) :=
  accepted_of_plan (by decide +kernel)
theorem accepted_sharedOrdered : JobAccepted (sharedRows orderedConfig) (jobOf (sharedRows orderedConfig).operands) :=
  accepted_of_plan (by decide +kernel)
theorem accepted_sharedFs : JobAccepted (sharedRows fsConfig) (jobOf (sharedRows fsConfig).operands) :=
  accepted_of_plan (by decide +kernel)
theorem accepted_fs : JobAccepted (jobState fsConfig) (jobOf (jobState fsConfig).operands) :=
  accepted_of_plan (by decide +kernel)
theorem accepted_copy : JobAccepted (jobState copyConfig) (jobOf (jobState copyConfig).operands) :=
  accepted_of_plan (by decide +kernel)
theorem accepted_shift : JobAccepted (jobState shiftConfig) (jobOf (jobState shiftConfig).operands) :=
  accepted_of_plan (by decide +kernel)
theorem accepted_float : JobAccepted (jobState floatConfig) (jobOf (jobState floatConfig).operands) :=
  accepted_of_plan (by decide +kernel)
theorem accepted_ordered : JobAccepted (jobState orderedConfig) (jobOf (jobState orderedConfig).operands) :=
  accepted_of_plan (by decide +kernel)
theorem accepted_qrs : JobAccepted (jobState qrsConfig) (jobOf (jobState qrsConfig).operands) :=
  accepted_of_plan (by decide +kernel)
theorem accepted_inPlace : JobAccepted inPlace (jobOf inPlace.operands) := accepted_of_plan (by decide +kernel)

theorem test_witness_ResetInputLeavesTheResetState :
    (∃ t, hostOperation (.hardReset 3) (latched 0x02 (jobState fsConfig)) = .next t) ∧ State.reset.latch = none ∧
    (∃ l, (latched 0x02 (jobState fsConfig)).latch = some l ∧ decode l.word = .command .processPlane) ∧
    JobAccepted (latched 0x02 (jobState fsConfig)) (jobOf (latched 0x02 (jobState fsConfig)).operands) ∧
    (latched 0x02 (jobState fsConfig)).busFail = [] ∧ Memory.wf (latched 0x02 (jobState fsConfig)).mem = true ∧
    SamplesApart (destPlane fsConfig (jobOf (latched 0x02 (jobState fsConfig)).operands)) ∧
    (∃ l, (latched 0x02 (jobState { fsConfig with count := 0 })).latch = some l ∧
      ¬ JobPassesChecks (latched 0x02 (jobState { fsConfig with count := 0 }))
        (jobOf (jobState { fsConfig with count := 0 }).operands)) ∧
    exec .processPlane (latched 0x02 overlapping) = .refused .planesOverlap := by
  refine ⟨next_of_goesOn (by decide +kernel), rfl, ⟨_, rfl, rfl⟩, accepted_of_plan (by decide +kernel), rfl, by decide,
    apart_of_spans (by decide) (by decide +kernel), ⟨_, rfl, fun h => absurd h.2.2.1 (by decide)⟩, ?_⟩
  show execProcessPlane (latched 0x02 overlapping) = _
  rw [execProcessPlane, show planJob (latched 0x02 overlapping) = .refuse .planesOverlap by decide +kernel]

/-- Pixel (1, 1), the first of row 1, is the sixth step: row 0's start, two pixels and end, and row 1's start come
before it. -/
theorem test_hardReset_keeps_steps_done :
    (List.range 10).map (fun i => (memByte (after (hostOperation (.hardReset 6) (latched 0x02 (jobState
      fsConfig)))).mem (BitVec.ofNat 32 (0x2000 + i))).toNat) = [18, 255, 0, 0, 0, 0, 0, 0, 0, 128] ∧
    (List.range 10).map (fun i => (memByte (after (hostOperation (.hardReset 5) (latched 0x02 (jobState
      fsConfig)))).mem (BitVec.ofNat 32 (0x2000 + i))).toNat) = [18, 255, 0, 0, 0, 0, 0, 0, 0, 0] := by decide +kernel

theorem test_witness_InterruptIsALevel :
    ∃ t, hostOperation (.write 0x18 32 0x1) { State.reset with irqStatus := 0x3, irqEn := 0x2 } = .next t := ⟨_, rfl⟩

/-- A state with DONE set and HOST about to do `ops`. -/
def doneThen (ops : List HostOp) : State := { State.reset with irqStatus := 0x1, host := ops }

theorem test_witness_StatusBitsAreSticky :
    (∃ t, step (doneThen [.write 0x18 32 0x1]) = .next t ∧ (doneThen []).irqStatus.getLsbD 0 = true ∧
      t.irqStatus.getLsbD 0 = false) ∧
    (∃ t, step (doneThen [.hardReset 0]) = .next t ∧ t.irqStatus.getLsbD 0 = false) ∧
    (∃ t, step (latched 0x03 (doneThen [.write 0x18 32 0x1])) = .next t ∧ t.irqStatus.getLsbD 0 = false ∧
      t.host = [.write 0x18 32 0x1]) ∧
    HostActs (doneThen [.hardReset 0]) ∧ ¬ HostActs (latched 0x03 (doneThen [.write 0x18 32 0x1])) := by
  refine ⟨⟨_, rfl, by decide, by decide⟩, ⟨_, rfl, by decide⟩, ⟨_, rfl, by decide, rfl⟩, Or.inl rfl, ?_⟩
  rintro (h | ⟨h, -⟩) <;> cases h

theorem test_witness_PlaneMemoryIsLittleEndian :
    Memory.wf [(0, 0x12), (0xFFFFFFFF, 0x34)] = true ∧ 4 ≤ 4 ∧ 3 < 4 ∧
    (∀ i < 4, (0x00000003 : Word) ≠ 0xFFFFFFFF + BitVec.ofNat 32 i) := by decide

theorem test_witness_RngSeedLoadsTheJobSeed :
    (configured fsConfig).cfgValid = true ∧ State.reset.cfgValid = false := by decide

/-- From state 0 the LCG of 41_noise R161 gives 0x3C6EF35F, then 0x47502932: a draw of 60, a TPDF draw of 60 + 71. -/
theorem test_draws : ngDraw 0 false = (0x3C6EF35F, 60) ∧ ngDraw 0 true = (0x47502932, 131) := by decide

theorem test_witness_NoiseRanges : { fsConfig with ampn := 65535, tpdfNoise := true }.ampn ≤ 65535 ∧
    { fsConfig with ampn := 65535, tpdfNoise := true }.tpdfNoise = true ∧ fsConfig.tpdfNoise = false := by decide

theorem test_witness_PatReadShowsTheToroidalCell : (Instr.patRead 31 31 3).wellFormed = true ∧
    (configured fsConfig).cfgValid = true ∧ State.reset.cfgValid = false := by decide

theorem test_witness_BayerClosedForm : 31 < 2 ^ 5 ∧ 0 < 2 ^ 0 ∧ bayerRank 5 31 31 = bayerRank 5 31 31 := by decide

theorem test_witness_TpdfRemapIsOddAndMonotone :
    (-128 : Int) ≤ -128 ∧ (-128 : Int) ≤ 127 ∧ (127 : Int) ≤ 127 := by decide

theorem test_witness_RotationsAreQuarterTurns : 31 < 32 ∧ 0 < 1 ∧ 3 < 4 := by decide

theorem vacTableOf_map (f : Nat → List Nat) {side : Nat} (h : side ∈ Config.patternSides) :
    vacTableOf (Config.patternSides.map f) side = f side := by
  simp only [Config.patternSides, List.mem_cons, List.not_mem_nil, or_false] at h
  rcases h with rfl | rfl | rfl | rfl | rfl | rfl <;> rfl

theorem ostroEntry_replicate {n i : Nat} (e : OstroEntry) (h : i < n) : ostroEntry (List.replicate n e) i = e := by
  simp [ostroEntry, List.getD_eq_getElem?_getD, h]

/-- The tables of `plainTables` are legal. -/
theorem plainTables_legal (s : State) : TablesLegal (plainTables s) := by
  refine ⟨fun side h => ?_, fun i h => ?_⟩
  · have : vacTableOf (plainTables s).vacRank side = List.range (side * side) :=
      vacTableOf_map (fun side => List.range (side * side)) h
    rw [this]
  · have : ostroEntry (plainTables s).ostroTab i = { c0 := 1, c1 := 0, c2 := 0 } := ostroEntry_replicate _ h
    rw [this]
    decide

theorem test_witness_ConstructBuildsTheWholePattern : TablesLegal (plainTables (staged 0x402 0x208)) ∧
    constructError (plainTables (staged 0x402 0x208)).operands = none ∧ 3 < 4 ∧ 31 < 32 ∧
    (∃ t, exec .construct (plainTables (staged 0x402 0x208)) = .next t ∧ t.act.side ≤ 4 ∧ t.act.tpdfOut = false) := by
  refine ⟨plainTables_legal _, by decide, by decide, by decide, ?_⟩
  exact ⟨after (exec .construct (plainTables (staged 0x402 0x208))), rfl, by decide, by decide⟩

theorem test_witness_QrsSeedLoadsTheRowPhase :
    65535 < 65536 ∧ (configured fsConfig).cfgValid = true ∧ State.reset.cfgValid = false := by decide

theorem test_witness_QuasirandomFoldIsATriangleWave :
    (0 : Word) ≤ 0x7FFFFFFF ∧ (0x7FFFFFFF : Word) < 0x80000000 ∧ (0x7FFFFFFF : Word).toNat / 2 ^ 23 < 256 ∧
    ¬ (0x80000000 : Word).toNat / 2 ^ 23 < 256 := by decide

theorem test_witness_EdSplitShowsTheExactSplit : 255 < 256 ∧
    ((configured fsConfig).cfgValid = true ∧ (configured fsConfig).act.routine = .errdif .floydSteinberg) ∧
    ((configured copyConfig).cfgValid = true ∧ ∀ k, (configured copyConfig).act.routine ≠ .errdif k) ∧
    State.reset.cfgValid = false :=
  ⟨by decide, ⟨rfl, rfl⟩, ⟨rfl, fun k h => by cases h⟩, rfl⟩

theorem test_witness_SplitsConserveTheError : (8 : Int) ∣ -1000 := by decide

theorem test_witness_SlotAmountsAreBounded :
    (437 : Int) ∈ splitError .floydSteinberg { c0 := 1, c1 := 0, c2 := 0 } 1000 ∧ 1 ≤ 1 ∧ 11 < 12 ∧
    [({ c0 := 7, c1 := 3, c2 := 6 } : OstroEntry)][0]? = some { c0 := 7, c1 := 3, c2 := 6 } ∧
    (65535 : Nat) = (0xFFFF : BitVec 16).toNat + (0 : BitVec 16).toNat + (0 : BitVec 16).toNat := by decide

/-- The worked examples of 44_error_diffusion R237 to R241, with the table entry (7, 3, 6) for OS. -/
theorem test_split_examples :
    [Kernel.floydSteinberg, .filterLite, .stucki, .atkinson, .ostromoukhov].map
      (fun k => splitError k { c0 := 7, c1 := 3, c2 := 6 } 1000) =
    [[437, 0, 0, 250, 313, 0, 0, 0, 0, 0, 0, 0], [500, 0, 0, 250, 250, 0, 0, 0, 0, 0, 0, 0],
      [190, 95, 48, 95, 190, 95, 48, 24, 48, 95, 48, 24], [125, 125, 0, 125, 125, 125, 0, 0, 0, 125, 0, 0],
      [437, 0, 0, 188, 375, 0, 0, 0, 0, 0, 0, 0]] := by decide

/-- The examples of 44_error_diffusion R242: 16, 10 and 8 bits, then float 0.5, 1.0 and −0.25. -/
theorem test_tableIndex_examples :
    [ostroIndex int16 0x8000, ostroIndex { int8 with bits := 10 } 1023, ostroIndex int8 17,
      ostroIndex float32 0x3F000000, ostroIndex float32 0x3F800000, ostroIndex float32 0xBE800000] =
    [128, 255, 17, 128, 255, 0] := by decide

theorem test_witness_AmountsLandMirroredOnOddRows : (2 = 1 ∨ 2 = 2) ∧ 8191 < 8192 ∧ AccumShaped Accum.zero ∧
    (List.replicate 12 (-2 ^ 30 : Int)).length = 12 ∧
    (∀ v ∈ List.replicate 12 (-2 ^ 30 : Int), -2 ^ 30 ≤ v ∧ v < 2 ^ 30) ∧
    (∀ r c, -2 ^ 30 ≤ accCell 2 Accum.zero r c ∧ accCell 2 Accum.zero r c < 2 ^ 30) ∧
    (-2 ^ 30 ≤ Accum.zero.car1.toInt ∧ Accum.zero.car1.toInt < 2 ^ 30) ∧
    slotPositions.getD 11 (0, 0) = (2, 2) ∧ slotPositions.getD 2 (0, 0) = (-2, 1) ∧ ((-2 : Int) < 1 - 2) := by
  refine ⟨by decide, by decide, ⟨by decide, by decide, by decide⟩, by decide, by decide, ?_, by decide, by decide,
    by decide, by decide⟩
  intro r c
  have : accCell 2 Accum.zero r c = 0 := by
    unfold accCell Accum.line Accum.zero
    split <;> simp [cellGet]
  rw [this]
  decide

/-- A sample address with a negative stride, below address 0 (20_memory R85), and the container sizes of R84. -/
theorem test_address_and_containers :
    ({ base := 0x8, stride := -16, size := 2, width := 4, height := 2 } : Plane).addr 3 1 = 0xFFFFFFFE ∧
    [int8, { int8 with bits := 9 }, int16, float32].map containerSize = [1, 2, 2, 4] := by decide

theorem test_witness_RowEndClearsItsLine : 1 ≤ 2 ∧ 2 ≤ kernelDepth .stucki ∧ 1 ≤ kernelDepth .ostromoukhov := by decide

theorem test_witness_GainAndOffsetAreRoundedHalfUp : formatLegal int16 = true ∧ formatLegal float32 = true := by decide

theorem test_witness_GainQueryShowsGainAndOffset :
    ActiveLegal { configured { fsConfig with family := .yuv } with inp := { InputRegs.reset with jobPlane := 2 } } ∧
    (configured fsConfig).cfgValid = true ∧ ActiveLegal State.reset ∧ State.reset.cfgValid = false := by
  refine ⟨fun _ => ⟨by decide, by decide, by decide, by decide, by decide, by decide, by decide, rfl⟩, rfl, ?_, rfl⟩
  intro h
  cases h

theorem test_witness_WorkValuesAreBounded : (formatLegal int16 = true ∧ int16.float = false) ∧ float32.float = true ∧
    floatValueOf 0x7F800000 = .inf false ∧ floatValueOf 0xFF800000 = .inf true ∧ floatValueOf 0x7FC00000 = .nan ∧
    floatValueOf 0x3F800000 = .finite (2 ^ 149) ∧ floatValueOf 0x80000001 = .finite (-1) ∧
    (0x80000001 / 2 ^ 23 % 2 ^ 8 = 0 ∧ Nat.testBit 0x80000001 31 = true) ∧ 0x3F800000 / 2 ^ 23 % 2 ^ 8 = 127 ∧
    (|(2 : Int) ^ 49 - 1| < 2 ^ 49) := by
  refine ⟨by decide, by decide, by decide, by decide, by decide, by decide, by decide, by decide, by decide, ?_⟩
  norm_num

theorem test_witness_RoundToFloatIsNearestEven : ((2 : Int) ^ 64 - 1 ≠ 0 ∧ |(2 : Int) ^ 64 - 1| < 2 ^ 64) ∧
    0x5F800000 < 2 ^ 32 ∧ floatValueOf 0x5F800000 = .finite (2 ^ 213) := by
  refine ⟨⟨by norm_num, by norm_num⟩, by decide, by decide⟩

theorem test_witness_ConstructIsAllOrNothing : constructError (staged 0x105 0x208).operands = none ∧
    constructError (staged 0x10C 0x208).operands = some 0x01 ∧ constructError (staged 0x105 0x020).operands = some 0x02 ∧
    constructError (staged 0x100 0x008).operands = some 0x03 ∧ constructError (staged 0x3005 0x208).operands = some 0x04 ∧
    constructError { (staged 0x105 0x208).inp with cfgAmpo := 0x10000 } = some 0x05 ∧
    constructError { (staged 0x105 0x208).inp with cfgPlanes := 0x50 } = some 0x06 := by decide

theorem test_witness_ConfigurationChangesOnlyByCommand :
    (∃ t, step (latched 0x01 (staged 0x105 0x208)) = .next t) ∧ (∃ t, step (latched 0x03 (configured fsConfig)) = .next t) ∧
    (∃ t, step { configured fsConfig with host := [.hardReset 0] } = .next t) ∧
    HostActs { configured fsConfig with host := [.hardReset 0] } ∧ ¬ HostActs (latched 0x01 (staged 0x105 0x208)) := by
  refine ⟨⟨after (step (latched 0x01 (staged 0x105 0x208))), rfl⟩, ⟨_, rfl⟩, ⟨_, rfl⟩, Or.inl rfl, ?_⟩
  rintro (h | ⟨h, -⟩) <;> cases h

/-- The job of `jobState` with other registers. -/
def jobWith (f : InputRegs → InputRegs) : State := { jobState fsConfig with inp := f (jobState fsConfig).inp }

theorem test_witness_ProcessPlaneChecksInOrder : State.reset.cfgValid = false ∧
    ((jobWith fun r => { r with jobPlane := 1 }).act.count ≤
      (jobOf (jobWith fun r => { r with jobPlane := 1 }).operands).plane) ∧
    ((∃ k, (jobWith fun r => { r with jobWidth := 8193 }).act.routine = .errdif k) ∧
      8192 < (jobOf (jobWith fun r => { r with jobWidth := 8193 }).operands).width) ∧
    (¬ 8192 < (jobOf (jobWith fun r => { r with jobWidth := 8192 }).operands).width ∧
      (jobOf (jobWith id).operands).plane < (jobWith id).act.count) ∧
    ¬ JobAligned (jobWith fun r => { r with jobSrcStride := 3 }) (jobOf (jobWith fun r => { r with
      jobSrcStride := 3 }).operands) ∧
    (JobAligned (jobWith fun r => { r with jobWidth := 0 }) (jobOf (jobWith fun r => { r with
      jobWidth := 0 }).operands) ∧ (jobOf (jobWith fun r => { r with jobWidth := 0 }).operands).width = 0) := by
  refine ⟨rfl, by decide, ⟨⟨_, rfl⟩, by decide⟩, by decide, ?_, ?_⟩
  · intro h
    exact absurd h.2.1 (by decide)
  · exact ⟨⟨by decide, by decide, by decide, by decide⟩, by decide⟩

theorem test_witness_OverlappingJobsAreRefused :
    ({ base := 0, stride := 0, size := 4, width := 65535, height := 1 } : Plane).width < 65536 ∧ 4 ≤ 4 ∧
    (int8.float = false ∧ int8.bits = 8) ∧ (int16.float = false ∧ 9 ≤ int16.bits ∧ int16.bits ≤ 16) ∧
    float32.float = true ∧
    JobPassesChecks overlapping (jobOf overlapping.operands) ∧
    SharesByte (sourcePlane overlapping.act (jobOf overlapping.operands))
      (destPlane overlapping.act (jobOf overlapping.operands)) ∧
    JobPassesChecks onDevice (jobOf onDevice.operands) := by
  refine ⟨by decide, by decide, by decide, by decide, rfl, ⟨rfl, rfl, by decide, fun _ => by decide, ⟨by decide, by decide, by decide, by decide⟩,
    by decide, by decide⟩, ⟨0x1004, by decide, by decide⟩, ⟨rfl, rfl, by decide, fun _ => by decide,
    ⟨by decide, by decide, by decide, by decide⟩, by decide, by decide⟩⟩

theorem test_witness_AcceptedJobsComplete : JobAccepted (jobState fsConfig) (jobOf (jobState fsConfig).operands) ∧
    (jobState fsConfig).busFail = [] ∧ JobAccepted inPlace (jobOf inPlace.operands) :=
  ⟨accepted_fs, rfl, accepted_inPlace⟩

theorem test_witness_JobLeavesNoiseStateAndGain :
    (JobAccepted (jobState shiftConfig) (jobOf (jobState shiftConfig).operands) ∧
      ∃ t, exec .processPlane (jobState shiftConfig) = .next t) ∧
    (JobAccepted (jobState floatConfig) (jobOf (jobState floatConfig).operands) ∧
      ∃ t, exec .processPlane (jobState floatConfig) = .next t) ∧
    (JobAccepted (jobState fsConfig) (jobOf (jobState fsConfig).operands) ∧
      ∃ t, exec .processPlane (jobState fsConfig) = .next t) :=
  ⟨⟨accepted_shift, next_of_goesOn (by decide +kernel)⟩, ⟨accepted_float, next_of_goesOn (by decide +kernel)⟩,
    ⟨accepted_fs, next_of_goesOn (by decide +kernel)⟩⟩

theorem test_witness_CopyJobCopiesContainers :
    JobAccepted (jobState copyConfig) (jobOf (jobState copyConfig).operands) ∧ (jobState copyConfig).busFail = [] ∧
    Memory.wf (jobState copyConfig).mem = true ∧ ConfigLegal copyConfig ∧ copyConfig.routine = .copy ∧
    LastWritten (destPlane copyConfig (jobOf (jobState copyConfig).operands)) 1 0 ∧
    ∃ t, exec .processPlane (jobState copyConfig) = .next t :=
  ⟨accepted_copy, rfl, by decide, ⟨by decide, by decide, by decide, by decide, by decide, by decide, by decide, rfl⟩,
    rfl, lastWritten_of_span (by decide) (by decide +kernel), next_of_goesOn (by decide +kernel)⟩

theorem test_witness_InPlaceCopyLeavesMemory : JobAccepted inPlace (jobOf inPlace.operands) ∧ inPlace.busFail = [] ∧
    Memory.wf inPlace.mem = true ∧ inPlace.act.routine = .copy ∧
    containerSize inPlace.act.src = containerSize inPlace.act.dst ∧
    (jobOf inPlace.operands).srcBase = (jobOf inPlace.operands).dstBase ∧
    (jobOf inPlace.operands).srcStride = (jobOf inPlace.operands).dstStride ∧
    ∃ t, exec .processPlane inPlace = .next t :=
  ⟨accepted_inPlace, rfl, by decide, rfl, rfl, rfl, rfl, next_of_goesOn (by decide +kernel)⟩

theorem test_witness_ShiftJobShiftsSamples :
    JobAccepted (jobState shiftConfig) (jobOf (jobState shiftConfig).operands) ∧ (jobState shiftConfig).busFail = [] ∧
    Memory.wf (jobState shiftConfig).mem = true ∧ ConfigLegal shiftConfig ∧ shiftConfig.routine = .shift ∧
    LastWritten (destPlane shiftConfig (jobOf (jobState shiftConfig).operands)) 1 0 ∧
    ∃ t, exec .processPlane (jobState shiftConfig) = .next t :=
  ⟨accepted_shift, rfl, by decide, ⟨by decide, by decide, by decide, by decide, by decide, by decide, by decide, rfl⟩,
    rfl, lastWritten_of_span (by decide) (by decide +kernel), next_of_goesOn (by decide +kernel)⟩

theorem test_witness_FloatOutJobRoundsSamples :
    JobAccepted (jobState floatConfig) (jobOf (jobState floatConfig).operands) ∧ (jobState floatConfig).busFail = [] ∧
    Memory.wf (jobState floatConfig).mem = true ∧ ConfigLegal floatConfig ∧ floatConfig.routine = .floatOut ∧
    LastWritten (destPlane floatConfig (jobOf (jobState floatConfig).operands)) 1 0 ∧
    ∃ t, exec .processPlane (jobState floatConfig) = .next t :=
  ⟨accepted_float, rfl, by decide, ⟨by decide, by decide, by decide, by decide, by decide, by decide, by decide, rfl⟩,
    rfl, lastWritten_of_span (by decide) (by decide +kernel), next_of_goesOn (by decide +kernel)⟩

theorem test_witness_OrderedJobDithersSamples :
    JobAccepted (jobState orderedConfig) (jobOf (jobState orderedConfig).operands) ∧
    (jobState orderedConfig).busFail = [] ∧ Memory.wf (jobState orderedConfig).mem = true ∧ ConfigLegal orderedConfig ∧
    orderedConfig.routine = .ordered ∧
    LastWritten (destPlane orderedConfig (jobOf (jobState orderedConfig).operands)) 1 0 ∧
    ∃ t, exec .processPlane (jobState orderedConfig) = .next t :=
  ⟨accepted_ordered, rfl, by decide, ⟨by decide, by decide, by decide, by decide, by decide, by decide, by decide, rfl⟩,
    rfl, lastWritten_of_span (by decide) (by decide +kernel), next_of_goesOn (by decide +kernel)⟩

theorem test_witness_QuasirandomJobDithersSamples :
    JobAccepted (jobState qrsConfig) (jobOf (jobState qrsConfig).operands) ∧ (jobState qrsConfig).busFail = [] ∧
    Memory.wf (jobState qrsConfig).mem = true ∧ ConfigLegal qrsConfig ∧ qrsConfig.routine = .qrs ∧
    LastWritten (destPlane qrsConfig (jobOf (jobState qrsConfig).operands)) 1 0 ∧
    ∃ t, exec .processPlane (jobState qrsConfig) = .next t :=
  ⟨accepted_qrs, rfl, by decide, ⟨by decide, by decide, by decide, by decide, by decide, by decide, by decide, rfl⟩,
    rfl, lastWritten_of_span (by decide) (by decide +kernel), next_of_goesOn (by decide +kernel)⟩

theorem test_witness_ErrorDiffusionPixelFollowsItsRule : (jobState fsConfig).act.routine = .errdif .floydSteinberg ∧
    (jobSetup (jobState fsConfig) (jobOf (jobState fsConfig).operands)).busFail = [] ∧
    ConfigLegal { fsConfig with ampo := 65535 } ∧ ({ jobOf InputRegs.reset with width := 8192 } : JobLatch).width ≤ 8192 ∧
    8192 ≤ 8192 :=
  ⟨rfl, rfl, ⟨by decide, by decide, by decide, by decide, by decide, by decide, by decide, rfl⟩, by decide, by decide⟩

/-- A whole ERRDIF job, at the last pixel of its last row; and one whose rows share their destination. -/
theorem test_witness_ErrorDiffusionJob : JobAccepted (jobState fsConfig) (jobOf (jobState fsConfig).operands) ∧
    (jobState fsConfig).busFail = [] ∧ Memory.wf (jobState fsConfig).mem = true ∧ ConfigLegal fsConfig ∧
    fsConfig.routine = .errdif .floydSteinberg ∧ (∃ t, exec .processPlane (jobState fsConfig) = .next t) ∧
    LastWritten (destPlane fsConfig (jobOf (jobState fsConfig).operands)) (edColumn 2 0 1) 0 ∧
    JobAccepted (sharedRows fsConfig) (jobOf (sharedRows fsConfig).operands) ∧
    LastWritten (destPlane fsConfig (jobOf (sharedRows fsConfig).operands)) (edColumn 2 1 1) 1 :=
  ⟨accepted_fs, rfl, by decide, ⟨by decide, by decide, by decide, by decide, by decide, by decide, by decide, rfl⟩, rfl,
    next_of_goesOn (by decide +kernel), lastWritten_of_span (by decide) (by decide +kernel), accepted_sharedFs,
    lastWritten_bottom (by decide)⟩

/-- Jobs whose rows share their destination meet the hypotheses of the statements on the routines, in their last row. -/
theorem test_witness_sharedRows :
    JobAccepted (sharedRows copyConfig) (jobOf (sharedRows copyConfig).operands) ∧
    JobAccepted (sharedRows orderedConfig) (jobOf (sharedRows orderedConfig).operands) ∧
    (∃ t, exec .processPlane (sharedRows copyConfig) = .next t) ∧
    (∃ t, exec .processPlane (sharedRows orderedConfig) = .next t) ∧
    LastWritten (destPlane copyConfig (jobOf (sharedRows copyConfig).operands)) 0 1 ∧
    LastWritten (destPlane orderedConfig (jobOf (sharedRows orderedConfig).operands)) 1 1 :=
  ⟨accepted_sharedCopy, accepted_sharedOrdered, next_of_goesOn (by decide +kernel), next_of_goesOn (by decide +kernel),
    lastWritten_bottom (by decide), lastWritten_bottom (by decide)⟩

/-- The job of `jobState` from other addresses, with another history. -/
def elsewhere : State :=
  { jobState fsConfig with
    inp := { (jobState fsConfig).inp with
      jobSrcBase := 0xFFFFFFFC, jobSrcStride := 4, jobDstBase := 0x3001, jobDstStride := -5, rngState := 77 }
    mem := [(3, 0x80), (0xFFFFFFFC, 0x34), (0xFFFFFFFD, 0x12), (0xFFFFFFFE, 0xFF), (0xFFFFFFFF, 0xFF)]
    acc := { Accum.zero with car0 := 5 } }

theorem test_witness_JobsAreDeterministic :
    JobAccepted (jobState fsConfig) (jobOf (jobState fsConfig).operands) ∧
    JobAccepted elsewhere (jobOf elsewhere.operands) ∧ (jobState fsConfig).busFail = [] ∧ elsewhere.busFail = [] ∧
    Memory.wf (jobState fsConfig).mem = true ∧ Memory.wf elsewhere.mem = true ∧
    (elsewhere.act = (jobState fsConfig).act ∧ elsewhere.pat = (jobState fsConfig).pat ∧
      elsewhere.ostroTab = (jobState fsConfig).ostroTab) ∧
    ConfigLegal (jobState fsConfig).act ∧
    LastWritten (destPlane fsConfig (jobOf (jobState fsConfig).operands)) 1 0 ∧
    LastWritten (destPlane fsConfig (jobOf elsewhere.operands)) 1 0 ∧
    ∀ x < 2, ∀ y < 2, sourceSample elsewhere (jobOf elsewhere.operands) x y =
      sourceSample (jobState fsConfig) (jobOf (jobState fsConfig).operands) x y :=
  ⟨accepted_fs, accepted_of_plan (by decide +kernel), rfl, rfl, by decide, by decide, ⟨rfl, rfl, rfl⟩,
    ⟨by decide, by decide, by decide, by decide, by decide, by decide, by decide, rfl⟩,
    lastWritten_of_span (by decide) (by decide +kernel), lastWritten_of_span (by decide) (by decide +kernel),
    by decide +kernel⟩

theorem test_witness_FirstFailingAccessEndsTheJob :
    JobAccepted { jobState fsConfig with busFail := [8] } (jobOf (jobState fsConfig).operands) ∧
    JobAccepted { jobState fsConfig with busFail := [7] } (jobOf (jobState fsConfig).operands) ∧
    2 * (jobOf (jobState fsConfig).operands).width * (jobOf (jobState fsConfig).operands).height ≤ 8 ∧
    7 < 2 * (jobOf (jobState fsConfig).operands).width * (jobOf (jobState fsConfig).operands).height ∧
    Memory.wf (jobState fsConfig).mem = true ∧ SamplesApart (destPlane fsConfig (jobOf (jobState fsConfig).operands)) :=
  ⟨accepted_of_plan (s := { jobState fsConfig with busFail := [8] }) (by decide +kernel),
    accepted_of_plan (s := { jobState fsConfig with busFail := [7] }) (by decide +kernel), by decide, by decide, by decide,
    apart_of_spans (by decide) (by decide +kernel)⟩

theorem test_witness_HostAccessesMeetTheRunningJob :
    (∃ l, (latched 0x02 (jobState fsConfig)).latch = some l ∧ decode l.word = .command .processPlane) ∧
    JobAccepted (latched 0x02 (jobState fsConfig)) (jobOf (jobState fsConfig).operands) ∧
    (latched 0x02 (jobState fsConfig)).busFail = [] ∧
    (∃ t, exec .processPlane (latched 0x02 (jobState fsConfig)) = .next t) ∧
    (destPlane fsConfig (jobOf (jobState fsConfig).operands)).holds 0x2009 = true ∧
    (sourcePlane fsConfig (jobOf (jobState fsConfig).operands)).holds 0x1008 = false ∧
    (destPlane fsConfig (jobOf (jobState fsConfig).operands)).holds 0x1008 = false ∧
    Memory.wf (jobState fsConfig).mem = true ∧
    SamplesApart (destPlane fsConfig (jobOf (jobState fsConfig).operands)) ∧ State.reset.latch = none ∧
    ¬ JobPassesChecks (latched 0x02 (jobState { fsConfig with count := 0 }))
      (jobOf (jobState { fsConfig with count := 0 }).operands) ∧
    ((latched 0x02 overlapping).latch = some { word := 0x02, regs := overlapping.inp } ∧
      exec .processPlane (latched 0x02 overlapping) = .refused .planesOverlap) := by
  refine ⟨⟨_, rfl, rfl⟩, accepted_of_plan (s := latched 0x02 (jobState fsConfig)) (by decide +kernel), rfl,
    next_of_goesOn (by decide +kernel), by decide, by decide, by decide, by decide,
    apart_of_spans (by decide) (by decide +kernel), rfl, fun h => absurd h.2.2.1 (by decide), rfl, ?_⟩
  show execProcessPlane (latched 0x02 overlapping) = _
  rw [execProcessPlane, show planJob (latched 0x02 overlapping) = .refuse .planesOverlap by decide +kernel]

/-- HOST's accesses to plane memory while the FDE is idle, at the last address. -/
theorem test_host_memory_idle :
    (after (hostOperation (.memRead 0xFFFFFFFF true) (after (hostOperation (.memWrite 0xFFFFFFFF 0xA5)
      State.reset)))).hostData = 0xA5 := by decide

/-- A pattern store of zeros has its shape. -/
theorem blankPat_shaped : PatternShaped blankPat := ⟨by decide, by decide⟩

theorem test_witness_EveryStepKeepsTheInvariant :
    Inv (latched 0x02 (plainTables (jobState fsConfig))) ∧
    ∃ t, step (latched 0x02 (plainTables (jobState fsConfig))) = .next t := by
  refine ⟨⟨by decide, ⟨⟨by decide, by decide, by decide, by decide, by decide, by decide, by decide⟩, by decide,
    by decide, ?_⟩, by decide, ?_, ?_, plainTables_legal (jobState fsConfig), blankPat_shaped, ⟨by decide, by decide, by decide⟩⟩,
    next_of_goesOn (by decide +kernel)⟩
  · intro l h
    cases h
    exact ⟨by decide, by decide, by decide, by decide, by decide, by decide, by decide⟩
  · intro l h
    cases h
    exact ⟨.processPlane, rfl⟩
  · intro _
    exact ⟨by decide, by decide, by decide, by decide, by decide, by decide, by decide, rfl⟩

end Sys2Proof.Tests
end

section
/-! SUPPORT. What a command and an operation of HOST can do: how a command completes, and which operations of HOST go on.
Later proofs cite these instead of walking through `exec` again. -/

namespace Sys2Proof.Machine

/-! ### The arms of `exec` (30_encoding R114) -/

@[simp] theorem exec_nop (s : State) : exec .nop s = execNop s := rfl
@[simp] theorem exec_construct (s : State) : exec .construct s = execConstruct s := rfl
@[simp] theorem exec_processPlane (s : State) : exec .processPlane s = execProcessPlane s := rfl
@[simp] theorem exec_softReset (s : State) : exec .softReset s = execSoftReset s := rfl
@[simp] theorem exec_rngStep (s : State) : exec .rngStep s = execRngStep s := rfl
@[simp] theorem exec_rngEol (s : State) : exec .rngEol s = execRngEol s := rfl
@[simp] theorem exec_rngSeed (s : State) : exec .rngSeed s = execRngSeed s := rfl
@[simp] theorem exec_qrsSeed (y : Nat) (s : State) : exec (.qrsSeed y) s = execQrsSeed y s := rfl
@[simp] theorem exec_qrsNext (s : State) : exec .qrsNext s = execQrsNext s := rfl
@[simp] theorem exec_patRead (px py rot : Nat) (s : State) : exec (.patRead px py rot) s = execPatRead px py rot s := rfl
@[simp] theorem exec_gainQuery (s : State) : exec .gainQuery s = execGainQuery s := rfl
@[simp] theorem exec_edSplit (idx : Nat) (s : State) : exec (.edSplit idx) s = execEdSplit idx s := rfl

/-! ### What a command can do -/

/-- `u` is `s` but for the registers that show results: the diagnostic outputs, GAIN and OFF, RNG_STATE and QRS_PHASE. -/
def OnlyResultsWritten (s u : State) : Prop :=
  u = { s with
    inp := { s.inp with rngState := u.inp.rngState, qrsPhase := u.inp.qrsPhase }
    rngOut := u.rngOut
    qrsOut := u.qrsOut
    gainLo := u.gainLo
    gainHi := u.gainHi
    offLo := u.offLo
    offHi := u.offHi
    patOut := u.patOut
    edDiscard := u.edDiscard
    edSlots := u.edSlots }

/-- Writing those registers only, whatever the values. -/
theorem onlyResultsWritten_of (s : State) (ns qc rngOut qrsOut gainLo gainHi offLo offHi patOut edDiscard : Word)
    (edSlots : Vector Word 12) :
    OnlyResultsWritten s { s with
      inp := { s.inp with rngState := ns, qrsPhase := qc }
      rngOut := rngOut, qrsOut := qrsOut, gainLo := gainLo, gainHi := gainHi, offLo := offLo, offHi := offHi
      patOut := patOut, edDiscard := edDiscard, edSlots := edSlots } :=
  rfl

/-- The three sorts of effect a command has when it succeeds, before it completes: it shows results, CONSTRUCT commits
the configuration it checked, PROCESS_PLANE finishes the job it ran. -/
inductive CommandEffect (s : State) : State → Prop where
  | results {u : State} (h : OnlyResultsWritten s u) : CommandEffect s u
  | committed {a : ActiveConfig} (h : checkConfig s.operands = .ok a) : CommandEffect s (commitConfig a s)
  | finished {j : JobLatch} {r : Run} (hp : planJob s = .run j) (hr : runJob s j = .ok r) :
      CommandEffect s (finishJob r s)

/-- How a command other than SOFT_RESET completes (46_engine R311): with its effect and DONE, with an error and nothing
else, or with the bus error of the job it abandons. -/
inductive Completion (s : State) : State → Prop where
  | success {u : State} (h : CommandEffect s u) : Completion s (succeed u)
  | failure (e : ErrorCode) (info : Word) : Completion s (failWith e info s)
  | busError {j : JobLatch} {b : BusFailure} (hp : planJob s = .run j) (hr : runJob s j = .error b) :
      Completion s (failWith .busError b.addr (abandonJob b.run s))

/-- A command that needs a configuration completes, if what it does with one only shows results. -/
theorem whenConstructed_completes {i : Instr} {s t u : State} (h : whenConstructed i s u = .next t)
    (hu : OnlyResultsWritten s u) : Completion s t := by
  rcases whenConstructed_cases i s u with ⟨-, he⟩ | ⟨-, he⟩
  · obtain rfl := Host.Outcome.next.inj (he.symm.trans h)
    exact .success (.results hu)
  · obtain rfl := Host.Outcome.next.inj (he.symm.trans h)
    exact .failure _ _

/-- Every command but SOFT_RESET that goes on has completed. -/
theorem exec_completes {i : Instr} {s t : State} (hi : i ≠ .softReset) (h : exec i s = .next t) : Completion s t := by
  cases i with
  | softReset => exact absurd rfl hi
  | nop => cases h; exact .success (.results (onlyResultsWritten_of ..))
  | rngStep => cases h; exact .success (.results (onlyResultsWritten_of ..))
  | rngEol => cases h; exact .success (.results (onlyResultsWritten_of ..))
  | qrsNext => cases h; exact .success (.results (onlyResultsWritten_of ..))
  | rngSeed => exact whenConstructed_completes h (onlyResultsWritten_of ..)
  | qrsSeed y => exact whenConstructed_completes h (onlyResultsWritten_of ..)
  | patRead px py rot => exact whenConstructed_completes h (onlyResultsWritten_of ..)
  | gainQuery => exact whenConstructed_completes h (onlyResultsWritten_of ..)
  | construct =>
    rcases execConstruct_cases s with ⟨e, -, he⟩ | ⟨a, ha, he⟩
    · cases he.symm.trans h; exact .failure _ _
    · cases he.symm.trans h; exact .success (.committed ha)
  | edSplit idx =>
    rcases execEdSplit_cases idx s with ⟨-, he⟩ | ⟨-, -, he⟩ | ⟨k, sl, -, -, -, he⟩
    · cases he.symm.trans h; exact .failure _ _
    · cases he.symm.trans h; exact .failure _ _
    · cases he.symm.trans h; exact .success (.results (onlyResultsWritten_of ..))
  | processPlane =>
    rcases execProcessPlane_cases s with ⟨e, info, -, he⟩ | ⟨-, he⟩ | ⟨q, -, he⟩ | ⟨j, r, hp, hr, he⟩ | ⟨j, b, hp, hr, he⟩
    · cases he.symm.trans h; exact .failure _ _
    · cases he.symm.trans h; exact .success (.results (onlyResultsWritten_of ..))
    · cases he.symm.trans h
    · cases he.symm.trans h; exact .success (.finished hp hr)
    · cases he.symm.trans h; exact .busError hp hr

/-- The finish of a job leaves the status bits alone (46_engine R319). -/
theorem finishJob_irqStatus (r : Run) (s : State) : (finishJob r s).irqStatus = s.irqStatus := by
  rw [finishJob_frame]

/-- A command's effect leaves the status bits alone: only its completion sets one. -/
theorem CommandEffect.irqStatus_eq {s u : State} (h : CommandEffect s u) : u.irqStatus = s.irqStatus := by
  cases h with
  | results h => rw [h]
  | committed _ => rfl
  | finished _ _ => exact finishJob_irqStatus _ _

/-- A completion sets DONE or ERR and clears neither (60_exceptions R362, R363). -/
theorem Completion.irqStatus_eq {s t : State} (h : Completion s t) :
    t.irqStatus = setDone s.irqStatus ∨ t.irqStatus = setErr s.irqStatus := by
  cases h with
  | success h => exact Or.inl (congrArg setDone h.irqStatus_eq)
  | failure _ _ => exact Or.inr rfl
  | busError _ _ => exact Or.inr rfl

/-! ### What an operation of HOST can do -/

/-- An access that goes on is 32 bits wide (20_memory R81). -/
theorem windowProblem_none {off width : Nat} (h : windowProblem off width = none) : off < 256 ∧ width = 32 ∧ off % 4 = 0 := by
  unfold windowProblem at h
  split_ifs at h with h1 h2
  omega

/-- HOST's write, if it goes on, is a 32-bit write of the register. -/
theorem hostOperation_write_next {off width : Nat} {v : Word} {s t : State}
    (h : hostOperation (.write off width v) s = .next t) : width = 32 ∧ t = writeRegister off v s := by
  unfold hostOperation at h
  dsimp only at h
  split at h
  · cases h
  · next hw => cases h; exact ⟨(windowProblem_none hw).2.1, rfl⟩

/-- HOST's read, if it goes on, is recorded (20_memory R82; log 26). -/
theorem hostOperation_read_next {off width : Nat} {s t : State}
    (h : hostOperation (.read off width) s = .next t) : t = recordRead off s := by
  unfold hostOperation at h
  dsimp only at h
  split at h
  · cases h
  · cases h; rfl

/-- HOST's write to plane memory, if it goes on, writes the byte (20_memory R80). -/
theorem hostMemWrite_next {a : Word} {b : Byte} {s t : State} (h : hostMemWrite a b s = .next t) :
    t = { s with mem := memSetByte s.mem a b } := by
  rcases hostMemWrite_cases a b s with hw | ⟨j, -, -, hw⟩
  · cases hw.symm.trans h; rfl
  · cases hw.symm.trans h

end Sys2Proof.Machine

end

section
/-! SUPPORT. The invariant `Inv`: what each shared operation, each command and each operation of HOST keeps of it, the step that
follows, and the state after reset. -/

namespace Sys2Proof.Machine

/-! ### Reserved bits -/

/-- A masked write sets no reserved bit (20_memory R82). -/
theorem masked_reserved (v m : Word) : v &&& m &&& ~~~m = 0 := by
  rw [BitVec.and_assoc]; simp

/-- Setting DONE sets no reserved bit. -/
theorem setDone_reserved {v : Word} (h : v &&& ~~~irqMask = 0) : setDone v &&& ~~~irqMask = 0 := by
  rw [setDone, BitVec.and_comm, BitVec.and_or_distrib_left, BitVec.and_comm, h]; decide

/-- Setting ERR sets no reserved bit. -/
theorem setErr_reserved {v : Word} (h : v &&& ~~~irqMask = 0) : setErr v &&& ~~~irqMask = 0 := by
  rw [setErr, BitVec.and_comm, BitVec.and_or_distrib_left, BitVec.and_comm, h]; decide

/-- An acknowledgment sets no reserved bit. -/
theorem clearWritten_reserved {old : Word} (v : Word) (h : old &&& ~~~irqMask = 0) :
    clearWritten old v &&& ~~~irqMask = 0 := by
  rw [clearWritten, BitVec.and_assoc, BitVec.and_comm (~~~v), ← BitVec.and_assoc, h]; simp

/-- The registers after reset have no reserved bit set. -/
theorem inputsReset_masked : InputsMasked InputRegs.reset := by
  unfold InputsMasked InputRegs.reset; decide

/-- A write by HOST sets no reserved bit of an input register (20_memory R82). -/
theorem writeInput_masked (off : Nat) (v : Word) {r : InputRegs} (h : InputsMasked r) :
    InputsMasked (writeInput off v r) := by
  obtain ⟨hsrc, hdst, hmode, hplanes, hwidth, hheight, hplane⟩ := h
  unfold writeInput InputsMasked
  -- a register is the one written, and masked, or as it was
  split <;> refine ⟨?_, ?_, ?_, ?_, ?_, ?_, ?_⟩ <;> first | assumption | exact masked_reserved _ _

/-! ### What a job keeps, failing or not -/

/-- A pixel's value keeps the accumulator in shape. -/
theorem pixelResult_accumShaped {s : State} {x : Nat} (y : Nat) (f : List Nat) {r : Run}
    (hx : usesAccumulator s.act.routine = true → x < 8192) (ha : AccumShaped r.acc) :
    AccumShaped (pixelResult s x y f r).2.acc := by
  rcases pixelValue_acc s x y (memRead r.mem ((sourcePlane s.act r.work.j).addr x y)
    (sourcePlane s.act r.work.j).size) (pixelRun x y f r) with he | ⟨k, sl, hk, he⟩
  · exact (congrArg AccumShaped he).mpr ha
  · exact (congrArg AccumShaped he).mpr (accDiffuse_shaped ha _ _ _ (hx (by rw [hk]; rfl)))

/-- A failing access leaves plane memory as it was. -/
theorem jobStep_error_mem {s : State} {m : JobStep} {r : Run} {b : BusFailure} (h : jobStep s m r = .error b) :
    b.run.mem = r.mem := by
  cases m with
  | rowStart y => cases h
  | rowEnd y => cases h
  | pixel x y =>
    rcases pixelStep_error h with ⟨f, -, -, he⟩ | ⟨f, g, -, -, -, he⟩
    · rw [he]; rfl
    · rw [he]

/-- A failing access leaves the accumulator in shape. -/
theorem jobStep_error_accumShaped {s : State} {m : JobStep} {r : Run} {b : BusFailure}
    (h : jobStep s m r = .error b)
    (hw : ∀ x y, m = .pixel x y → usesAccumulator s.act.routine = true → x < 8192) (ha : AccumShaped r.acc) :
    AccumShaped b.run.acc := by
  cases m with
  | rowStart y => cases h
  | rowEnd y => cases h
  | pixel x y =>
    rcases pixelStep_error h with ⟨f, -, -, he⟩ | ⟨f, g, -, -, -, he⟩
    · rw [he]; exact ha
    · rw [he]; exact pixelResult_accumShaped y f (hw x y rfl) ha

/-- The memory a stopped job had made is canonical. -/
theorem runSteps_error_memWf {s : State} {steps : List JobStep} {r : Run} {b : BusFailure}
    (hw : Memory.wf r.mem = true) (h : runSteps s steps r = .error b) : Memory.wf b.run.mem = true := by
  obtain ⟨m, -, a, ha, hb⟩ :=
    runSteps_error_induct (P := fun q => Memory.wf q.mem = true) (fun _ _ _ _ hq hs => jobStep_memWf hs hq) hw h
  rw [jobStep_error_mem hb]; exact ha

/-- The memory that the first steps of a job leave is canonical. -/
theorem partialRun_memWf {s : State} (j : JobLatch) (done : Nat) (hw : Memory.wf s.mem = true) :
    Memory.wf (partialRun s j done).mem = true := by
  unfold partialRun
  split
  · next r h => exact runSteps_memWf (r := jobSetup s j) hw h
  · next b h => exact runSteps_error_memWf (r := jobSetup s j) hw h

/-- Every pixel of a job that runs lies in the accumulator's range, if the routine uses it (46_engine R316). -/
theorem jobSteps_inRange {s : State} {j : JobLatch} (hp : planJob s = .run j) {m : JobStep}
    (hm : m ∈ jobSteps s.act.routine j.width j.height) (x y : Nat) (he : m = .pixel x y)
    (hu : usesAccumulator s.act.routine = true) : x < 8192 := by
  obtain ⟨-, -, -, hwidth, -⟩ := (planJob_run_iff s j).1 hp
  have hx := (pixel_of_mem_jobSteps (he ▸ hm)).1
  have := hwidth hu
  omega

/-- A job starts with an accumulator in shape. -/
theorem jobSetup_accumShaped {s : State} (j : JobLatch) (ha : AccumShaped s.acc) : AccumShaped (jobSetup s j).acc := by
  unfold jobSetup
  dsimp only
  split
  · exact ⟨rfl, rfl, rfl⟩
  · exact ha

/-- A job that ends leaves the accumulator in shape. -/
theorem runJob_accumShaped {s : State} {j : JobLatch} {r : Run} (hp : planJob s = .run j) (hr : runJob s j = .ok r)
    (ha : AccumShaped s.acc) : AccumShaped r.acc :=
  runSteps_induct (P := fun q => AccumShaped q.acc)
    (fun _ hm _ _ hq hs => jobStep_accumShaped hs (jobSteps_inRange hp hm) hq) (jobSetup_accumShaped j ha) hr

/-- A job that a failing access stops leaves the accumulator in shape. -/
theorem runJob_error_accumShaped {s : State} {j : JobLatch} {b : BusFailure} (hp : planJob s = .run j)
    (hr : runJob s j = .error b) (ha : AccumShaped s.acc) : AccumShaped b.run.acc := by
  obtain ⟨m, hm, q, hq, hb⟩ := runSteps_error_induct (P := fun q => AccumShaped q.acc)
    (fun _ hm _ _ hq hs => jobStep_accumShaped hs (jobSteps_inRange hp hm) hq) (jobSetup_accumShaped j ha) hr
  exact jobStep_error_accumShaped hb (jobSteps_inRange hp hm) hq

/-! ### The invariant, operation by operation -/

/-- Every error has a listed code (60_exceptions R361). -/
theorem errorCode_known (e : ErrorCode) : errorCode e ∈ knownCodes := by
  cases e <;> decide

/-- Raising an error keeps the invariant. -/
theorem Inv.raiseError {s : State} (h : Inv s) (e : ErrorCode) (info : Word) : Inv (raiseError e info s) where
  memory := h.memory
  reserved := ⟨h.reserved.1, h.reserved.2.1, setErr_reserved h.reserved.2.2.1, h.reserved.2.2.2⟩
  code := errorCode_known e
  latch := h.latch
  active := h.active
  tables := h.tables
  pattern := h.pattern
  accum := h.accum

/-- Emptying the latch keeps the invariant. -/
theorem Inv.emptyLatch {s : State} (h : Inv s) : Inv { s with latch := none } where
  memory := h.memory
  reserved := ⟨h.reserved.1, h.reserved.2.1, h.reserved.2.2.1, fun _ hl => nomatch hl⟩
  code := h.code
  latch := fun _ hl => nomatch hl
  active := h.active
  tables := h.tables
  pattern := h.pattern
  accum := h.accum

/-- Completion with an error keeps the invariant. -/
theorem Inv.failWith {s : State} (h : Inv s) (e : ErrorCode) (info : Word) : Inv (failWith e info s) :=
  (h.raiseError e info).emptyLatch

/-- Completion with no error keeps the invariant. -/
theorem Inv.succeed {s : State} (h : Inv s) : Inv (succeed s) :=
  Inv.emptyLatch (s := { s with irqStatus := setDone s.irqStatus })
    { memory := h.memory
      reserved := ⟨h.reserved.1, h.reserved.2.1, setDone_reserved h.reserved.2.2.1, h.reserved.2.2.2⟩
      code := h.code
      latch := h.latch
      active := h.active
      tables := h.tables
      pattern := h.pattern
      accum := h.accum }

/-- A write of RNG_STATE and QRS_PHASE sets no reserved bit: they have none (10_state R46, R47). -/
theorem InputsMasked.withCounters {r : InputRegs} (h : InputsMasked r) (ns qc : Word) :
    InputsMasked { r with rngState := ns, qrsPhase := qc } :=
  h

/-- Showing results keeps the invariant. -/
theorem Inv.results {s u : State} (h : Inv s) (hu : OnlyResultsWritten s u) : Inv u := by
  rw [hu]
  exact
    { memory := h.memory
      reserved := ⟨h.reserved.1.withCounters _ _, h.reserved.2⟩
      code := h.code
      latch := h.latch
      active := h.active
      tables := h.tables
      pattern := h.pattern
      accum := h.accum }

/-- The commit of a configuration that passed its checks keeps the invariant (46_engine R312, 42_pattern R189). -/
theorem Inv.commitConfig {s : State} (h : Inv s) {a : ActiveConfig} (ha : checkConfig s.operands = .ok a) :
    Inv (commitConfig a s) where
  memory := h.memory
  reserved := h.reserved
  code := h.code
  latch := h.latch
  active := fun _ => checkConfig_ok_legal ha
  tables := h.tables
  pattern := patOf_shaped _
  accum := h.accum

/-- The finish of a job keeps the invariant (46_engine R319). -/
theorem Inv.finishJob {s : State} (h : Inv s) {j : JobLatch} {r : Run} (hp : planJob s = .run j)
    (hr : runJob s j = .ok r) : Inv (finishJob r s) := by
  rw [finishJob_frame]
  exact
    { memory := runSteps_memWf (r := jobSetup s j) h.memory hr
      reserved := ⟨h.reserved.1.withCounters _ _, h.reserved.2⟩
      code := h.code
      latch := h.latch
      active := h.active
      tables := h.tables
      pattern := h.pattern
      accum := runJob_accumShaped hp hr h.accum }

/-- Abandoning a job at a bus error keeps the invariant (20_memory R89). -/
theorem Inv.abandonJob {s : State} (h : Inv s) {j : JobLatch} {b : BusFailure} (hp : planJob s = .run j)
    (hr : runJob s j = .error b) : Inv (abandonJob b.run s) where
  memory := landedMem_wf _ _ _ h.memory
  reserved := h.reserved
  code := h.code
  latch := h.latch
  active := h.active
  tables := h.tables
  pattern := h.pattern
  accum := runJob_error_accumShaped hp hr h.accum

/-- The reset of the engine keeps the invariant (10_state R59). -/
theorem Inv.resetEngine {s : State} (hm : Memory.wf s.mem = true) (ht : TablesLegal s) : Inv (resetEngine s) where
  memory := hm
  reserved := ⟨inputsReset_masked, by show (0 : Word) &&& _ = 0; simp, by show (0 : Word) &&& _ = 0; simp,
    fun _ hl => nomatch hl⟩
  code := by show (0 : BitVec 8) ∈ knownCodes; decide
  latch := fun _ hl => nomatch hl
  active := fun hv => nomatch hv
  tables := ht
  pattern := patOf_shaped _
  accum := anyAccum_shaped _

/-- However a command completes, the invariant is kept. -/
theorem Inv.completion {s t : State} (h : Inv s) (hc : Completion s t) : Inv t := by
  cases hc with
  | success he =>
    cases he with
    | results hu => exact (h.results hu).succeed
    | committed ha => exact (h.commitConfig ha).succeed
    | finished hp hr => exact (h.finishJob hp hr).succeed
  | failure e info => exact h.failWith e info
  | busError hp hr => exact (h.abandonJob hp hr).failWith _ _

/-- Every command keeps the invariant. -/
theorem Inv.exec {s t : State} (h : Inv s) {i : Instr} (he : exec i s = .next t) : Inv t := by
  by_cases hi : i = .softReset
  · subst hi
    cases he
    exact Inv.resetEngine h.memory h.tables
  · exact h.completion (exec_completes hi he)

/-! ### The invariant under HOST's operations -/

/-- A submission keeps the invariant: it latches only commands, with registers whose reserved bits are clear
(46_engine R310). -/
theorem Inv.submit {s : State} (h : Inv s) (w : Word) : Inv (submit w s) := by
  rcases submit_cases w s with ⟨-, he⟩ | ⟨-, -, he⟩ | ⟨-, i, hi, he⟩
  · rw [he]; exact h.raiseError _ _
  · rw [he]; exact h.raiseError _ _
  · rw [he]
    exact
      { memory := h.memory
        reserved := ⟨h.reserved.1, h.reserved.2.1, h.reserved.2.2.1, by rintro l ⟨rfl⟩; exact h.reserved.1⟩
        code := h.code
        latch := by rintro l ⟨rfl⟩; exact ⟨i, hi⟩
        active := h.active
        tables := h.tables
        pattern := h.pattern
        accum := h.accum }

/-- New values of the read-write registers, their reserved bits clear, keep the invariant. -/
theorem Inv.withRegisters {s : State} (h : Inv s) {r : InputRegs} {en st : Word} (hr : InputsMasked r)
    (hen : en &&& ~~~irqMask = 0) (hst : st &&& ~~~irqMask = 0) :
    Inv { s with inp := r, irqEn := en, irqStatus := st } where
  memory := h.memory
  reserved := ⟨hr, hen, hst, h.reserved.2.2.2⟩
  code := h.code
  latch := h.latch
  active := h.active
  tables := h.tables
  pattern := h.pattern
  accum := h.accum

/-- A write to the register window keeps the invariant (20_memory R82). -/
theorem Inv.writeRegister {s : State} (h : Inv s) (off : Nat) (v : Word) : Inv (writeRegister off v s) := by
  obtain ⟨hinp, hen, hst, -⟩ := h.reserved
  unfold Machine.writeRegister
  split
  · exact h.submit v
  · exact h.withRegisters hinp (masked_reserved _ _) hst
  · exact h.withRegisters hinp hen (clearWritten_reserved v hst)
  · exact h.withRegisters (writeInput_masked _ _ hinp) hen hst

/-- New canonical contents of plane memory keep the invariant. -/
theorem Inv.withMem {s : State} (h : Inv s) {m : Memory} (hm : Memory.wf m = true) : Inv { s with mem := m } where
  memory := hm
  reserved := h.reserved
  code := h.code
  latch := h.latch
  active := h.active
  tables := h.tables
  pattern := h.pattern
  accum := h.accum

/-- What is the model's own is not in the invariant (log 1, 26, 27). -/
theorem Inv.withOwn {s : State} (h : Inv s) (host : List HostOp) (turns : List Turn) (data : Word) (free : Nat) :
    Inv { s with host := host, turns := turns, hostData := data, free := free } :=
  ⟨h.memory, h.reserved, h.code, h.latch, h.active, h.tables, h.pattern, h.accum⟩

/-- Every operation of HOST, and the reset input, keeps the invariant. -/
theorem Inv.hostOperation {s t : State} (h : Inv s) {op : HostOp} (he : hostOperation op s = .next t) : Inv t := by
  cases op with
  | write off width v =>
    obtain ⟨-, rfl⟩ := hostOperation_write_next he
    exact h.writeRegister off v
  | read off width =>
    obtain rfl := hostOperation_read_next he
    exact h.withOwn _ _ _ _
  | wait =>
    cases he
    rw [pollStatus_eq]
    exact h.withOwn _ _ _ _
  | memWrite a b =>
    obtain rfl := hostMemWrite_next he
    exact h.withMem (memSetByte_wf a b h.memory)
  | memRead a fresh => cases he; exact h.withOwn _ _ _ _
  | hardReset done =>
    change hardReset done s = .next t at he
    rcases hardReset_cases done s with ⟨j, -, hw⟩ | ⟨r, -, hw⟩ | hw
    · cases hw.symm.trans he; exact Inv.resetEngine (partialRun_memWf j done h.memory) h.tables
    · cases hw.symm.trans he
    · cases hw.symm.trans he; exact Inv.resetEngine h.memory h.tables

/-- HOST's move keeps the invariant. -/
theorem Inv.hostMove {s t : State} (h : Inv s) (he : hostMove s = .next t) : Inv t := by
  rcases hostMove_cases s with ⟨-, hm⟩ | ⟨op, rest, -, hm⟩
  · cases hm.symm.trans he; exact h
  · exact (h.withOwn rest s.turns s.hostData s.free).hostOperation (hm.symm.trans he)

/-- The invariant is kept by every step. -/
theorem Inv.step {s t : State} (h : Inv s) (he : step s = .next t) : Inv t := by
  have hpop : Inv s.popTurn := h.withOwn s.host s.turns.tail s.hostData s.free
  rcases step_cases s with ⟨-, hs⟩ | ⟨l, -, -, hs⟩ | ⟨l, i, -, -, -, hs⟩ | ⟨l, w, -, -, -, hs⟩
  · exact h.hostMove (hs.symm.trans he)
  · exact hpop.hostMove (hs.symm.trans he)
  · exact hpop.exec (hs.symm.trans he)
  · cases hs.symm.trans he

/-! ### The invariant after reset -/

/-- The rank table of a side is a permutation, whatever the parameter (00_scope R10; log 13). -/
theorem vacTable_perm (side : Nat) : (Config.vacTable side).Perm (List.range (side * side)) := by
  unfold Config.vacTable
  split
  · next h => exact List.isPerm_iff.1 h
  · exact List.Perm.refl _

/-- Every entry of the Ostromoukhov table is legal, whatever the parameter (00_scope R10; log 14). -/
theorem ostroTable_total (i : Nat) : 1 ≤ (Config.ostroTable i).total ∧ (Config.ostroTable i).total ≤ 65535 := by
  unfold Config.ostroTable
  split
  · assumption
  · decide

/-- The tables after reset are legal: they are the parameters. -/
theorem reset_tablesLegal : TablesLegal State.reset := by
  refine ⟨fun side hside => ?_, fun i hi => ?_⟩
  · have htab : vacTableOf State.reset.vacRank side = Config.vacTable side := by
      simp only [Config.patternSides, List.mem_cons, List.not_mem_nil, or_false] at hside
      rcases hside with rfl | rfl | rfl | rfl | rfl | rfl <;> rfl
    rw [htab]
    exact vacTable_perm side
  · have hentry : ostroEntry State.reset.ostroTab i = Config.ostroTable i :=
      (getD_map_range Config.ostroTable 256 i _).trans (if_pos hi)
    rw [hentry]
    exact ostroTable_total i

/-- The pattern store of zeros is in shape. -/
theorem blankPat_shaped : PatternShaped blankPat := by
  refine ⟨List.length_replicate, fun m hm => ?_⟩
  obtain rfl := List.eq_of_mem_replicate hm
  refine ⟨List.length_replicate, fun row hrow => ?_⟩
  obtain rfl := List.eq_of_mem_replicate hrow
  exact List.length_replicate

/-- The invariant holds after reset. -/
theorem inv_reset : Inv State.reset where
  memory := rfl
  reserved := ⟨inputsReset_masked, by decide, by decide, fun _ hl => nomatch hl⟩
  code := by decide
  latch := fun _ hl => nomatch hl
  active := fun hv => nomatch hv
  tables := reset_tablesLegal
  pattern := blankPat_shaped
  accum := ⟨rfl, rfl, rfl⟩

end Sys2Proof.Machine

/-- Settles O59: SEQ's commands and HOST's operations each keep the invariant. -/
theorem everyStepKeepsTheInvariant : Obligations.EveryStepKeepsTheInvariant :=
  fun _ _ h he => h.step he

/-- Settles O60. -/
theorem invariantHoldsAfterReset : Obligations.InvariantHoldsAfterReset :=
  Sys2Proof.Machine.inv_reset

end

section
/-! SUPPORT. STATUS, the reserved offsets and bits, the registers after reset, and the status bits with the interrupt. -/

namespace Sys2Proof.Machine

open Sys2Proof.Claims

/-! ### STATUS (10_state R32) -/

/-- Every routine's code is 1 to 6 (30_encoding R118). -/
theorem routineCode_bounds (r : Routine) : 1 ≤ routineCode r ∧ routineCode r ≤ 6 := by
  cases r <;> simp [routineCode]

/-- `STATUS.ROUTINE` fits its three bits. -/
theorem routineField_lt (s : State) : s.routineField < 8 := by
  unfold State.routineField
  have := routineCode_bounds s.act.routine
  split <;> omega

/-- The STATUS word as a number: its fields do not overlap. -/
theorem statusWord_toNat (s : State) :
    s.statusWord.toNat = s.latch.isSome.toNat + 2 * s.cfgValid.toNat + 256 * s.routineField := by
  have hb := Bool.toNat_le s.latch.isSome
  have hc := Bool.toNat_le s.cfgValid
  have hr := routineField_lt s
  simp only [State.statusWord, State.busy, BitVec.toNat_ofNat]
  omega

/-- `STATUS.BUSY` shows the latch (10_state R57). -/
theorem statusWord_busy (s : State) : s.statusWord.getLsbD 0 = s.latch.isSome := by
  rw [BitVec.getLsbD, Nat.testBit_zero, statusWord_toNat]
  cases s.latch.isSome <;> simp <;> omega

/-- `STATUS.CFG_VALID` shows the flag (10_state R32). -/
theorem statusWord_cfgValid (s : State) : s.statusWord.getLsbD 1 = s.cfgValid := by
  rw [BitVec.getLsbD, Nat.testBit_succ, Nat.testBit_zero, statusWord_toNat]
  cases s.latch.isSome <;> cases s.cfgValid <;> simp <;> omega

/-- `STATUS.ROUTINE` shows the routine field (10_state R32). -/
theorem statusWord_routine (s : State) : s.statusWord.toNat / 2 ^ 8 % 2 ^ 3 = s.routineField := by
  have hb := Bool.toNat_le s.latch.isSome
  have hc := Bool.toNat_le s.cfgValid
  have hr := routineField_lt s
  rw [statusWord_toNat]
  omega

/-- The reserved bits of STATUS are 0 (10_state R51). -/
theorem statusWord_reserved (s : State) :
    s.statusWord.toNat / 2 ^ 2 % 2 ^ 6 = 0 ∧ s.statusWord.toNat / 2 ^ 11 % 2 ^ 21 = 0 := by
  have hb := Bool.toNat_le s.latch.isSome
  have hc := Bool.toNat_le s.cfgValid
  have hr := routineField_lt s
  rw [statusWord_toNat]
  omega

/-- STATUS has no bit outside its defined fields. -/
theorem statusWord_defined (s : State) : s.statusWord &&& ~~~0x00000703 = 0 := by
  have hall : ∀ b c : Bool, ∀ n < 8, BitVec.ofNat 32 (b.toNat + 2 * c.toNat + 256 * n) &&& ~~~0x00000703 = 0 := by
    decide
  exact hall s.busy s.cfgValid s.routineField (routineField_lt s)

/-- A write to STATUS is ignored (10_state R32). -/
theorem writeRegister_status (v : Word) (s : State) : writeRegister 0x04 v s = s := rfl

end Sys2Proof.Machine

open Sys2Proof Sys2Proof.Machine Sys2Proof.Claims

/-- Settles O13: the fields of the STATUS word, read off its value as a number; and one poll of WAIT. -/
theorem statusShowsLatchAndConfiguration : Obligations.StatusShowsLatchAndConfiguration := by
  intro s
  have hfield : (readRegister 0x04 s).toNat / 2 ^ 8 % 2 ^ 3 = s.routineField := statusWord_routine s
  refine ⟨statusWord_busy s, statusWord_cfgValid s, (statusWord_reserved s).1, (statusWord_reserved s).2, ?_, ?_,
    fun v => writeRegister_status v s, ?_⟩
  · intro hc
    rw [hfield, State.routineField, hc]
    rfl
  · intro hc
    rw [hfield, State.routineField, hc, if_pos rfl]
    refine ⟨?_, ?_, ?_, ?_, ?_, ?_⟩
    case refine_6 => rintro ⟨k, hk⟩; rw [hk]; rfl
    all_goals intro hr; rw [hr]; rfl
  · show Host.Outcome.next (pollStatus s) = _
    rw [pollStatus_eq, show (readRegister 0x04 s).getLsbD 0 = s.busy from statusWord_busy s]

namespace Sys2Proof.Machine

open Sys2Proof.Claims

/-! ### Reserved offsets and bits (10_state R51) -/

/-- The reserved offsets and CMD read 0 (10_state R34, R51). -/
theorem readRegister_readsZero {off : Nat} (h : readsZero off = true) (s : State) : readRegister off s = 0 := by
  simp only [readsZero, List.contains_iff_mem, List.mem_cons, List.not_mem_nil, or_false, Bool.or_eq_true,
    decide_eq_true_eq] at h
  unfold readRegister
  -- an offset that shows a register is none of these
  split <;> first | rfl | omega

/-- A write to a reserved offset is ignored (10_state R51). -/
theorem writeRegister_reserved {off : Nat} (h : off ∈ [0x38, 0x3C, 0x8C] ∨ 0xC0 ≤ off) (v : Word) (s : State) :
    writeRegister off v s = s := by
  simp only [List.mem_cons, List.not_mem_nil, or_false] at h
  have hinp : writeInput off v s.inp = s.inp := by
    unfold writeInput
    split
    case h_18 => rfl
    all_goals omega
  unfold writeRegister
  split
  case h_4 => rw [hinp]
  all_goals omega

/-- A byte shown in a word leaves the bits above it 0. -/
theorem byte_defined (b : BitVec 8) : b.setWidth 32 &&& ~~~(0x000000FF : Word) = 0 := by
  have hall : ∀ n < 256, BitVec.ofNat 32 n &&& ~~~(0x000000FF : Word) = 0 := by decide +kernel
  have hb : b.setWidth 32 = BitVec.ofNat 32 b.toNat := BitVec.eq_of_toNat_eq (by simp)
  rw [hb]
  exact hall b.toNat b.isLt

/-- The reserved bits of every register read 0, if those stored are clear (10_state R31 to R51). -/
theorem readRegister_defined {s : State} (h : ReservedClear s) (off : Nat) :
    readRegister off s &&& ~~~(definedBits off) = 0 := by
  obtain ⟨⟨hsrc, hdst, hmode, hplanes, hwidth, hheight, hplane⟩, hen, hst, -⟩ := h
  unfold definedBits
  split_ifs with hz h04 h0C hirq hfmt h28 h2C hsize h5C
  · rw [readRegister_readsZero hz]; rfl
  · subst h04; exact statusWord_defined s
  · subst h0C; exact byte_defined s.errCode
  · rcases hirq with rfl | rfl
    · exact hen
    · exact hst
  · rcases hfmt with rfl | rfl
    · exact hsrc
    · exact hdst
  · subst h28; exact hmode
  · subst h2C; exact hplanes
  · rcases hsize with rfl | rfl
    · exact hwidth
    · exact hheight
  · subst h5C; exact hplane
  · show _ &&& (0 : Word) = 0
    simp

end Sys2Proof.Machine

/-- Settles O12. -/
theorem reservedSpaceReadsZero : Obligations.ReservedSpaceReadsZero := by
  intro s hs
  refine ⟨readRegister_defined hs, fun off v hoff => ⟨readRegister_readsZero ?_ s, writeRegister_reserved hoff v s⟩⟩
  simp only [readsZero, List.contains_iff_mem, List.mem_cons, List.not_mem_nil, or_false, Bool.or_eq_true,
    decide_eq_true_eq] at hoff ⊢
  omega

namespace Sys2Proof.Machine

open Sys2Proof.Claims

/-! ### Reset (10_state R59) -/

/-- After the reset of the engine every register but ID and CAPS reads 0 (10_state R59). -/
theorem readRegister_resetEngine (off : Nat) (s : State) :
    readRegister off (resetEngine s) =
      if off = 0x00 then 0x464D5431 else if off = 0x1C then 0x01202000 else 0 := by
  by_cases hid : off = 0x00
  · subst hid; rfl
  by_cases hcaps : off = 0x1C
  · subst hcaps; rfl
  rw [if_neg hid, if_neg hcaps]
  unfold readRegister
  split <;> first | rfl | contradiction

/-- The interrupt is deasserted while no status bit is set. -/
theorem irq_of_irqStatus_zero {s : State} (h : s.irqStatus = 0) : s.irq = false := by
  simp [State.irq, h]

/-- The reset of the engine leaves what R59 lets HOST see. -/
theorem resetEngine_readsAsReset (s : State) : ReadsAsReset (resetEngine s) :=
  ⟨fun off => readRegister_resetEngine off s, rfl, rfl, irq_of_irqStatus_zero rfl⟩

/-- The state after power-up shows HOST what the reset of the engine leaves. -/
theorem reset_readsAsReset : ReadsAsReset State.reset :=
  ⟨fun off => readRegister_resetEngine off State.reset, rfl, rfl, irq_of_irqStatus_zero rfl⟩

end Sys2Proof.Machine

/-- Settles O14. -/
theorem resetRegisterValues : Obligations.ResetRegisterValues :=
  ⟨reset_readsAsReset, rfl, rfl⟩

/-- Settles O15: SOFT_RESET is the reset of the engine, which touches nothing else. -/
theorem softResetLeavesTheResetState : Obligations.SoftResetLeavesTheResetState :=
  fun s => ⟨resetEngine s, rfl, resetEngine_readsAsReset s, rfl, rfl, rfl, fun _ => rfl,
    ⟨rfl, rfl, rfl, rfl, rfl, rfl⟩, rfl⟩

namespace Sys2Proof.Machine

/-! ### The interrupt and the status bits (60_exceptions R362 to R370) -/

/-- Bit `i` of a word, as a test against the word with only that bit set. -/
theorem and_twoPow_ne_zero_iff (v : Word) {i : Nat} (hi : i < 32) :
    v &&& BitVec.twoPow 32 i ≠ 0 ↔ v.getLsbD i = true := by
  have hne : BitVec.twoPow 32 i ≠ 0 := by
    intro h
    have := congrArg (BitVec.getLsbD · i) h
    simp [hi] at this
  rw [BitVec.and_twoPow]
  split <;> simp_all

/-- IRQ is the level of 60_exceptions R368. -/
theorem irq_iff (s : State) :
    s.irq = true ↔ (s.irqStatus &&& s.irqEn &&& 0x1 ≠ 0 ∨ s.irqStatus &&& s.irqEn &&& 0x2 ≠ 0) := by
  have hdone := and_twoPow_ne_zero_iff (s.irqStatus &&& s.irqEn) (i := 0) (by decide)
  have herr := and_twoPow_ne_zero_iff (s.irqStatus &&& s.irqEn) (i := 1) (by decide)
  rw [show BitVec.twoPow 32 0 = 0x1 by decide] at hdone
  rw [show BitVec.twoPow 32 1 = 0x2 by decide] at herr
  rw [hdone, herr]
  simp [State.irq]

/-- A write to IRQ_STATUS clears the bits written as 1 and no other (10_state R37). -/
theorem clearWritten_getLsbD (old v : Word) (n : Nat) :
    (clearWritten old v).getLsbD n = (old.getLsbD n && !v.getLsbD n) := by
  by_cases hn : n < 32
  · simp [clearWritten, hn]
  · simp [clearWritten, BitVec.getLsbD_of_ge old n (by omega)]

/-- HOST's write to IRQ_STATUS is the acknowledgment (60_exceptions R370). -/
theorem hostOperation_writeIrqStatus (v : Word) (s : State) :
    hostOperation (.write 0x18 32 v) s = .next (acknowledge v s) :=
  rfl

/-- Acknowledging both bits deasserts IRQ (60_exceptions R370). -/
theorem irq_acknowledge_both (s : State) : (acknowledge 0x3 s).irq = false := by
  rw [State.irq, acknowledge_irqStatus, clearWritten_getLsbD, clearWritten_getLsbD]
  simp

end Sys2Proof.Machine

/-- Settles O17. -/
theorem interruptIsALevel : Obligations.InterruptIsALevel := by
  intro s v
  refine ⟨irq_iff s, ?_, acknowledge 0x3 s, hostOperation_writeIrqStatus _ s, irq_acknowledge_both s, rfl⟩
  intro t ht n
  cases (hostOperation_writeIrqStatus v s).symm.trans ht
  exact clearWritten_getLsbD _ v n

namespace Sys2Proof.Machine

/-- Setting DONE clears nothing. -/
theorem setDone_getLsbD {v : Word} {n : Nat} (h : v.getLsbD n = true) : (setDone v).getLsbD n = true := by
  simp [setDone, h]

/-- Setting ERR clears nothing. -/
theorem setErr_getLsbD {v : Word} {n : Nat} (h : v.getLsbD n = true) : (setErr v).getLsbD n = true := by
  simp [setErr, h]

/-- A write by HOST clears a status bit only as an acknowledgment (10_state R37). -/
theorem writeRegister_clears {off n : Nat} {v : Word} {s : State} (h1 : s.irqStatus.getLsbD n = true)
    (h0 : (writeRegister off v s).irqStatus.getLsbD n = false) : off = 0x18 ∧ v.getLsbD n = true := by
  unfold writeRegister at h0
  split at h0
  · exfalso
    rcases submit_cases v s with ⟨-, he⟩ | ⟨-, -, he⟩ | ⟨-, i, -, he⟩
    · rw [he, raiseError_irqStatus, setErr_getLsbD h1] at h0; cases h0
    · rw [he, raiseError_irqStatus, setErr_getLsbD h1] at h0; cases h0
    · rw [he, h1] at h0; cases h0
  · rw [h1] at h0; cases h0
  · rw [acknowledge_irqStatus, clearWritten_getLsbD, h1] at h0
    exact ⟨rfl, by simpa using h0⟩
  · rw [h1] at h0; cases h0

/-- An operation of HOST that clears a status bit is the acknowledgment of that bit, or the reset input. -/
theorem hostOperation_clears {op : HostOp} {n : Nat} {s t : State} (h : hostOperation op s = .next t)
    (h1 : s.irqStatus.getLsbD n = true) (h0 : t.irqStatus.getLsbD n = false) :
    (∃ v, op = .write 0x18 32 v ∧ v.getLsbD n = true) ∨ ∃ k, op = .hardReset k := by
  cases op with
  | write off width v =>
    obtain ⟨rfl, rfl⟩ := hostOperation_write_next h
    obtain ⟨rfl, hv⟩ := writeRegister_clears h1 h0
    exact Or.inl ⟨v, rfl, hv⟩
  | hardReset k => exact Or.inr ⟨k, rfl⟩
  | read off width =>
    obtain rfl := hostOperation_read_next h
    exact absurd (h0.symm.trans h1) (by decide)
  | wait =>
    cases h
    rw [pollStatus_eq] at h0
    exact absurd (h0.symm.trans h1) (by decide)
  | memWrite a b =>
    obtain rfl := hostMemWrite_next h
    exact absurd (h0.symm.trans h1) (by decide)
  | memRead a fresh =>
    cases h
    exact absurd (h0.symm.trans h1) (by decide)

/-- A move of HOST that clears a status bit performs one of those operations. -/
theorem hostMove_clears {n : Nat} {s t : State} (h : hostMove s = .next t) (h1 : s.irqStatus.getLsbD n = true)
    (h0 : t.irqStatus.getLsbD n = false) :
    (∃ v rest, s.host = .write 0x18 32 v :: rest ∧ v.getLsbD n = true) ∨ ∃ k rest, s.host = .hardReset k :: rest := by
  rcases hostMove_cases s with ⟨-, hm⟩ | ⟨op, rest, hhost, hm⟩
  · cases hm.symm.trans h
    exact absurd (h0.symm.trans h1) (by decide)
  · rcases hostOperation_clears (hm.symm.trans h) h1 h0 with ⟨v, rfl, hv⟩ | ⟨k, rfl⟩
    · exact Or.inl ⟨v, rest, hhost, hv⟩
    · exact Or.inr ⟨k, rest, hhost⟩

/-- A command that clears a status bit is SOFT_RESET (46_engine R315). -/
theorem exec_clears {i : Instr} {n : Nat} {s t : State} (h : exec i s = .next t) (h1 : s.irqStatus.getLsbD n = true)
    (h0 : t.irqStatus.getLsbD n = false) : i = .softReset := by
  by_contra hi
  rcases (exec_completes hi h).irqStatus_eq with he | he
  · rw [he, setDone_getLsbD h1] at h0; cases h0
  · rw [he, setErr_getLsbD h1] at h0; cases h0

/-- With a full latch HOST acts exactly in its turn (log 1). -/
theorem hostActs_iff_of_latch {s : State} {l : Latch} (h : s.latch = some l) :
    Claims.HostActs s ↔ hostMovesFirst s = true := by
  simp [Claims.HostActs, hostMovesFirst, h]

end Sys2Proof.Machine

/-- Settles O18: HOST clears a bit by acknowledging it or with the reset input, SEQ only by SOFT_RESET. -/
theorem statusBitsAreSticky : Obligations.StatusBitsAreSticky := by
  intro s t n h h1 h0
  rcases step_cases s with ⟨hl, hs⟩ | ⟨l, hl, hturn, hs⟩ | ⟨l, i, hl, hturn, hd, hs⟩ | ⟨l, w, -, -, -, hs⟩
  · exact Or.inl ⟨Or.inl hl, hostMove_clears (hs.symm.trans h) h1 h0⟩
  · exact Or.inl ⟨(hostActs_iff_of_latch hl).2 hturn, hostMove_clears (s := s.popTurn) (hs.symm.trans h) h1 h0⟩
  · refine Or.inr ⟨?_, l, hl, ?_⟩
    · rw [hostActs_iff_of_latch hl, hturn]; decide
    · rw [hd, exec_clears (s := s.popTurn) (hs.symm.trans h) h1 h0]
  · cases hs.symm.trans h

end

section
/-! SUPPORT. The error split of a pixel: the rounding of 00_scope R12, the amounts of the twelve slots and their bound. -/

namespace Sys2Proof.Machine

open Sys2Proof.Claims

/-! ### Rounded division (00_scope R12) -/

/-- `rnd` is the rounding of 00_scope R12 over the rationals; both give 0 for a divisor of 0. -/
theorem nearest_eq_rnd (n : Int) (d : Nat) : nearest n d = rnd n d := by
  unfold nearest rnd
  rcases Nat.eq_zero_or_pos d with rfl | hd
  · norm_num
  · have hq : (n : ℚ) / d + 1 / 2 = ((2 * n + d : Int) : ℚ) / ((2 * d : Nat) : ℚ) := by
      have : (d : ℚ) ≠ 0 := by positivity
      push_cast
      field_simp
    rw [hq, Rat.floor_intCast_div_natCast]
    push_cast
    rfl

/-! ### The amounts of a split (44_error_diffusion R237 to R241) -/

/-- The amount of slot n of a Stucki split, the forward slot excepted (44_error_diffusion R239). -/
theorem stucki_slot (entry : OstroEntry) (e : Int) {n : Nat} (h1 : 1 ≤ n) (h2 : n < 12) :
    (splitError .stucki entry e).getD n 0 = rnd ([8, 4, 2, 4, 8, 4, 2, 1, 2, 4, 2, 1].getD n 0 * e) 42 := by
  interval_cases n <;> rfl

/-- The forward slot of a Stucki split takes what the others leave (44_error_diffusion R239). -/
theorem stucki_forward (entry : OstroEntry) (e : Int) :
    (splitError .stucki entry e).getD 0 0 =
      e - ∑ n ∈ Finset.Icc 1 11, rnd (([8, 4, 2, 4, 8, 4, 2, 1, 2, 4, 2, 1] : List Int).getD n 0 * e) 42 := by
  rw [show Finset.Icc 1 11 = {1, 2, 3, 4, 5, 6, 7, 8, 9, 10, 11} by decide]
  simp [splitError, stuckiWeights, stuckiDivisor]

/-- Every kernel gives twelve amounts (44_error_diffusion R232). -/
theorem splitError_length (k : Kernel) (entry : OstroEntry) (e : Int) : (splitError k entry e).length = 12 := by
  cases k <;> rfl

/-! ### The bound of an amount (44_error_diffusion R247) -/

/-- A share w/t of the error, w ≤ t, rounded, is at most |e| + 1 in magnitude. -/
theorem abs_rnd_share_le {w t : Nat} (h : w ≤ t) (e : Int) : |rnd (w * e) t| ≤ |e| + 1 := by
  rcases Nat.eq_zero_or_pos t with rfl | ht
  · simp [rnd]; positivity
  obtain ⟨hlo, hhi⟩ := rnd_bounds (w * e) ht
  have ht' : (0 : Int) < t := by exact_mod_cast ht
  have hshare : |(w : Int) * e| ≤ t * |e| := by
    rw [abs_mul, Nat.abs_cast]
    exact mul_le_mul_of_nonneg_right (by exact_mod_cast h) (abs_nonneg e)
  obtain ⟨h1, h2⟩ := abs_le.1 hshare
  rw [abs_le]
  constructor <;> by_contra hc <;> nlinarith

/-- What two such shares leave of the error is at most |e| + 1 in magnitude, if their weights leave a weight. -/
theorem abs_rnd_rest_le {c1 c2 t : Nat} (h : c1 + c2 ≤ t) (e : Int) :
    |e - rnd (c1 * e) t - rnd (c2 * e) t| ≤ |e| + 1 := by
  rcases Nat.eq_zero_or_pos t with rfl | ht
  · simp [rnd]
  obtain ⟨hlo1, hhi1⟩ := rnd_bounds (c1 * e) ht
  obtain ⟨hlo2, hhi2⟩ := rnd_bounds (c2 * e) ht
  have ht' : (0 : Int) < t := by exact_mod_cast ht
  have hsum : (c1 : Int) + c2 ≤ t := by exact_mod_cast h
  have hc : (0 : Int) ≤ t - c1 - c2 := by omega
  have hshare : |((t : Int) - c1 - c2) * e| ≤ t * |e| := by
    rw [abs_mul, abs_of_nonneg hc]
    exact mul_le_mul_of_nonneg_right (by omega) (abs_nonneg e)
  obtain ⟨h1, h2⟩ := abs_le.1 hshare
  rw [abs_le]
  constructor <;> by_contra hc <;> nlinarith

/-- The amounts of a kernel that rounds two shares and sends the rest forward: FS, FL and OS. -/
theorem threeSlots_bounded {c1 c2 t : Nat} (h : c1 + c2 ≤ t) (e : Int) :
    ∀ a ∈ [e - rnd (c1 * e) t - rnd (c2 * e) t, 0, 0, rnd (c1 * e) t, rnd (c2 * e) t, 0, 0, 0, 0, 0, 0, 0],
      |a| ≤ |e| + 1 := by
  have hzero : |(0 : Int)| ≤ |e| + 1 := by simp; positivity
  simp only [List.forall_mem_cons]
  exact ⟨abs_rnd_rest_le h e, hzero, hzero, abs_rnd_share_le (by omega) e, abs_rnd_share_le (by omega) e,
    hzero, hzero, hzero, hzero, hzero, hzero, hzero, List.forall_mem_nil _⟩

/-- The forward slot of a Stucki split: for an error of magnitude 6 or more the eleven roundings cost less than the
weights take, and the smaller errors are finitely many. -/
theorem abs_stucki_forward_le (e : Int) :
    |e - (stuckiWeights.map fun w => rnd (w * e) stuckiDivisor).sum| ≤ |e| + 1 := by
  by_cases hsmall : -6 ≤ e ∧ e ≤ 6
  · obtain ⟨hlo, hhi⟩ := hsmall
    interval_cases e <;> decide
  · have h1 := rnd_bounds (1 * e) (d := 42) (by decide)
    have h2 := rnd_bounds (2 * e) (d := 42) (by decide)
    have h4 := rnd_bounds (4 * e) (d := 42) (by decide)
    have h8 := rnd_bounds (8 * e) (d := 42) (by decide)
    have habs := le_abs_self e
    have hneg := neg_le_abs e
    simp only [stuckiWeights, stuckiDivisor, List.map_cons, List.map_nil, List.sum_cons, List.sum_nil]
    rw [abs_le]
    omega

/-- Every amount of every kernel is at most |e| + 1 in magnitude (44_error_diffusion R247). -/
theorem splitError_bounded (k : Kernel) (entry : OstroEntry) (e : Int) :
    ∀ a ∈ splitError k entry e, |a| ≤ |e| + 1 := by
  cases k with
  | floydSteinberg => exact threeSlots_bounded (c1 := 4) (c2 := 5) (t := 16) (by decide) e
  | filterLite =>
    have h := threeSlots_bounded (c1 := 1) (c2 := 1) (t := 4) (by decide) e
    rwa [show ((1 : Nat) : Int) * e = e by simp, sub_sub, ← two_mul] at h
  | stucki =>
    have hshare : ∀ w ∈ stuckiWeights, |rnd (w * e) stuckiDivisor| ≤ |e| + 1 := by
      simp only [stuckiWeights, List.forall_mem_cons]
      have h1 := abs_rnd_share_le (w := 1) (t := 42) (by decide) e
      have h2 := abs_rnd_share_le (w := 2) (t := 42) (by decide) e
      have h4 := abs_rnd_share_le (w := 4) (t := 42) (by decide) e
      have h8 := abs_rnd_share_le (w := 8) (t := 42) (by decide) e
      exact ⟨h4, h2, h4, h8, h4, h2, h1, h2, h4, h2, h1, List.forall_mem_nil _⟩
    exact List.forall_mem_cons.2 ⟨abs_stucki_forward_le e, List.forall_mem_map.2 hshare⟩
  | atkinson =>
    have hshare : |rnd e 8| ≤ |e| + 1 := by
      simpa using abs_rnd_share_le (w := 1) (t := 8) (by decide) e
    have hzero : |(0 : Int)| ≤ |e| + 1 := by simp; positivity
    simp only [splitError, atDivisor, List.forall_mem_cons]
    exact ⟨hshare, hshare, hzero, hshare, hshare, hshare, hzero, hzero, hzero, hshare, hzero, hzero, List.forall_mem_nil _⟩
  | ostromoukhov =>
    exact threeSlots_bounded (c1 := entry.c1.toNat) (c2 := entry.c2.toNat) (t := entry.total)
      (by unfold OstroEntry.total; omega) e

/-- A listed entry of the table is the one its index names (10_state R54). -/
theorem ostroEntry_of_getElem? {tab : List OstroEntry} {i : Nat} {entry : OstroEntry} (h : tab[i]? = some entry) :
    ostroEntry tab i = entry := by
  rw [ostroEntry, List.getD_eq_getElem?_getD, h]
  rfl

end Sys2Proof.Machine

open Sys2Proof Sys2Proof.Machine Sys2Proof.Claims

/-- Settles O34: the lists of R237 to R241 with `nearest` for the model's rounding, and their bound. -/
theorem slotAmountsAreBounded : Obligations.SlotAmountsAreBounded := by
  refine ⟨rfl, fun _ _ _ h => ostroEntry_of_getElem? h, fun entry e => ?_⟩
  simp only [nearest_eq_rnd]
  refine ⟨rfl, rfl, fun n h1 h2 => stucki_slot entry e h1 h2, stucki_forward entry e, rfl, ?_,
    fun k => ⟨splitError_length k entry e, splitError_bounded k entry e⟩⟩
  rintro t rfl
  rfl

end

section
/-! SUPPORT. The checks of CONSTRUCT in the terms of the rule: fields by their bits, routines by formats and mode number. -/

namespace Sys2Proof.Machine

open Sys2Proof.Claims

/-! ### The fields of the staging registers (10_state R39 to R42) -/

/-- The model's format word is the rule's (10_state R39). -/
theorem formatOf_eq_ruleFormat (w : Word) : formatOf w = ruleFormat w := by
  simp [formatOf, ruleFormat, field, bitOf]

/-- The bits a format register holds, as a number: BITS, FLOAT and FULL (10_state R39). -/
theorem formatWord_toNat (w : Word) :
    (w &&& 0x33F).toNat = w.toNat % 64 + 256 * (w.getLsbD 8).toNat + 512 * (w.getLsbD 9).toNat := by
  rw [BitVec.toNat_and, BitVec.getLsbD, BitVec.getLsbD, Nat.toNat_testBit, Nat.toNat_testBit]
  generalize w.toNat = n
  show n &&& 831 = _
  have hlow : (n &&& 831) % 2 ^ 6 = n % 2 ^ 6 := by
    rw [Nat.and_mod_two_pow, show 831 % 2 ^ 6 = 2 ^ 6 - 1 by decide, Nat.and_two_pow_sub_one_eq_mod, Nat.mod_mod]
  have hmid : (n &&& 831) / 2 ^ 6 % 2 ^ 2 = 0 := by
    rw [Nat.and_div_two_pow, Nat.and_mod_two_pow, show 831 / 2 ^ 6 % 2 ^ 2 = 0 by decide, Nat.and_zero]
  have hhigh : (n &&& 831) / 2 ^ 8 = n / 2 ^ 8 % 2 ^ 2 := by
    rw [Nat.and_div_two_pow, show 831 / 2 ^ 8 = 2 ^ 2 - 1 by decide, Nat.and_two_pow_sub_one_eq_mod]
  omega

/-- The legal formats by the numbers of their words (30_encoding R119). -/
theorem formatLegal_iff_number : ∀ b < 64, ∀ float full : Bool,
    (formatLegal { bits := b, float := float, full := full } = true ↔
      b + 256 * float.toNat + 512 * full.toNat ∈ legalFormatWords.map BitVec.toNat) := by
  decide +kernel

/-- The legal formats are those of the words 30_encoding R119 lists. -/
theorem formatLegal_iff (w : Word) : formatLegal (ruleFormat w) = true ↔ w &&& 0x33F ∈ legalFormatWords := by
  rw [← List.mem_map_of_injective (f := BitVec.toNat) (fun _ _ h => BitVec.eq_of_toNat_eq h), formatWord_toNat]
  exact formatLegal_iff_number _ (Nat.mod_lt _ (by decide)) _ _

/-- The model's modes are numbered as 30_encoding R117 does. -/
theorem modeOf_eq (n : Nat) : modeOf n = modesByNumber[n]? := by
  by_cases h : n < 10
  · interval_cases n <;> rfl
  · rw [List.getElem?_eq_none (by simpa [modesByNumber] using h)]
    unfold modeOf
    split
    case h_11 => rfl
    all_goals omega

/-- The model's families are numbered as 10_state R41 does. -/
theorem familyOf_eq (n : Nat) : familyOf n = familiesByNumber[n]? := by
  by_cases h : n < 3
  · interval_cases n <;> rfl
  · rw [List.getElem?_eq_none (by simpa [familiesByNumber] using h)]
    unfold familyOf
    split
    case h_4 => rfl
    all_goals omega

/-! ### The checks of CONSTRUCT (46_engine R312, R313) -/

/-- Identical formats are such as 00_scope R15 says. -/
theorem formatIdentical_iff (src dst : Format) : formatIdentical src dst = true ↔
    (src.float = true ∧ dst.float = true) ∨
      (src.float = false ∧ dst.float = false ∧ src.bits = dst.bits ∧ src.full = dst.full) := by
  simp [formatIdentical, and_assoc]

/-- FAST cannot pair the formats: neither are both float, nor both integer with one range (46_engine R313). -/
def FastUnpaired (src dst : Format) : Prop :=
  ¬ ((src.float = true ∧ dst.float = true) ∨ (src.float = false ∧ dst.float = false ∧ src.full = dst.full))

/-- FAST with formats that it cannot pair has no routine (46_engine R313). -/
theorem selectRoutine_unpaired {src dst : Format} (h : FastUnpaired src dst) :
    selectRoutine src dst .fast = .error .cfgBadPairing := by
  have hni : ¬ formatIdentical src dst = true := by
    rw [formatIdentical_iff]
    rintro (hf | ⟨h1, h2, -, h4⟩)
    · exact h (Or.inl hf)
    · exact h (Or.inr ⟨h1, h2, h4⟩)
  have hns : ¬ (!src.float && !dst.float && src.full == dst.full) = true := by
    simp only [Bool.and_eq_true, Bool.not_eq_true', beq_iff_eq]
    exact fun hc => h (Or.inr ⟨hc.1.1, hc.1.2, hc.2⟩)
  simp only [selectRoutine, if_neg hni, if_neg hns]

/-- Every other pairing has the routine of 46_engine R313. -/
theorem selectRoutine_eq {src dst : Format} {n : Nat} {m : Mode} (hm : modesByNumber[n]? = some m)
    (h : ¬ (n = 0 ∧ FastUnpaired src dst)) : selectRoutine src dst m = .ok (routineFor src dst n) := by
  have hn : n < 10 := (List.getElem?_eq_some_iff.1 hm).1
  unfold selectRoutine routineFor
  by_cases hid : formatIdentical src dst = true
  · rw [if_pos hid, if_pos ((formatIdentical_iff src dst).1 hid)]
  · rw [if_neg hid, if_neg (fun hc => hid ((formatIdentical_iff src dst).2 hc))]
    rcases Nat.eq_zero_or_pos n with rfl | hpos
    · obtain rfl := Option.some.inj hm
      have hpair : (src.float = true ∧ dst.float = true) ∨
          (src.float = false ∧ dst.float = false ∧ src.full = dst.full) := by
        by_contra hc
        exact h ⟨rfl, hc⟩
      have hshift : (!src.float && !dst.float && src.full == dst.full) = true := by
        rcases hpair with hf | ⟨h1, h2, h3⟩
        · exact absurd ((formatIdentical_iff src dst).2 (Or.inl hf)) hid
        · simp [h1, h2, h3]
      exact if_pos hshift
    · interval_cases n
      all_goals
        obtain rfl := Option.some.inj hm
        cases dst.float <;> rfl

/-- The sides CONSTRUCT rejects (42_pattern R180). -/
theorem not_patternSide_iff (side : Nat) :
    Config.patternSides.contains side = false ↔ side ∉ [1, 2, 4, 8, 16, 32] := by
  simp [Config.patternSides]

/-- The amplitude checks (46_engine R312, 10_state R42). -/
theorem checkAmplitudes_eq (r : InputRegs) :
    checkAmplitudes r =
      if r.cfgAmpo.toInt < 0 ∨ 65535 < r.cfgAmpo.toInt ∨ r.cfgAmpn.toInt < 0 ∨ 65535 < r.cfgAmpn.toInt then
        .error .cfgBadAmplitude
      else .ok (r.cfgAmpo.toInt.toNat, r.cfgAmpn.toInt.toNat) := by
  unfold checkAmplitudes amplitudeOf
  by_cases ho : 0 ≤ r.cfgAmpo.toInt ∧ r.cfgAmpo.toInt ≤ 65535
  · by_cases hn : 0 ≤ r.cfgAmpn.toInt ∧ r.cfgAmpn.toInt ≤ 65535
    · rw [if_pos ho, if_pos hn, if_neg (by omega)]
    · rw [if_pos ho, if_neg hn, if_pos (by omega)]
  · rw [if_neg ho]
    exact (if_pos (by omega)).symm

/-- The plane checks fail on a reserved family and on a count outside 1 to 4 (46_engine R312, 10_state R41). -/
theorem checkPlanes_bad {r : InputRegs} (h : r.cfgPlanes.toNat % 4 = 3 ∨ r.cfgPlanes.toNat / 2 ^ 4 % 8 = 0 ∨
    4 < r.cfgPlanes.toNat / 2 ^ 4 % 8) : checkPlanes r = .error .cfgBadPlanes := by
  have hfamily : field r.cfgPlanes 0 2 = r.cfgPlanes.toNat % 4 := by simp [field]
  have hcount : field r.cfgPlanes 4 3 = r.cfgPlanes.toNat / 2 ^ 4 % 8 := rfl
  unfold checkPlanes
  rw [hfamily, hcount]
  split
  · rfl
  · next family hf =>
    have hne : r.cfgPlanes.toNat % 4 ≠ 3 := fun h3 => by rw [h3] at hf; cases hf
    exact if_neg (by omega)

/-- Else they give the family and the count. -/
theorem checkPlanes_good {r : InputRegs} (h : ¬ (r.cfgPlanes.toNat % 4 = 3 ∨ r.cfgPlanes.toNat / 2 ^ 4 % 8 = 0 ∨
    4 < r.cfgPlanes.toNat / 2 ^ 4 % 8)) : ∃ family, familiesByNumber[r.cfgPlanes.toNat % 4]? = some family ∧
      checkPlanes r = .ok (family, r.cfgPlanes.toNat / 2 ^ 4 % 8) := by
  have hfamily : field r.cfgPlanes 0 2 = r.cfgPlanes.toNat % 4 := by simp [field]
  have hcount : field r.cfgPlanes 4 3 = r.cfgPlanes.toNat / 2 ^ 4 % 8 := rfl
  have hlt : r.cfgPlanes.toNat % 4 < familiesByNumber.length := by
    show _ < 3
    omega
  refine ⟨_, List.getElem?_eq_getElem hlt, ?_⟩
  unfold checkPlanes
  rw [hfamily, hcount, familyOf_eq, List.getElem?_eq_getElem hlt]
  exact if_pos (by omega)

/-- `a` holds every field of the staging registers `r` at its bits, and the routine of 46_engine R313 (10_state R39 to
R42, 30_encoding R117). -/
structure CommitsFields (r : InputRegs) (a : ActiveConfig) : Prop where
  src : a.src = ruleFormat r.cfgSrcFmt
  dst : a.dst = ruleFormat r.cfgDstFmt
  side : a.side = r.cfgMode.toNat / 2 ^ 8 % 64
  mode : modesByNumber[r.cfgMode.toNat % 16]? = some a.mode
  dyn : a.dyn = r.cfgMode.getLsbD 16
  static : a.static = r.cfgMode.getLsbD 17
  corr : a.corr = r.cfgMode.getLsbD 18
  tpdfOut : a.tpdfOut = r.cfgMode.getLsbD 19
  tpdfNoise : a.tpdfNoise = r.cfgMode.getLsbD 20
  family : familiesByNumber[r.cfgPlanes.toNat % 4]? = some a.family
  count : a.count = r.cfgPlanes.toNat / 2 ^ 4 % 8
  ampo : (a.ampo : Int) = r.cfgAmpo.toInt
  ampn : (a.ampn : Int) = r.cfgAmpn.toInt
  routine : a.routine = routineFor (ruleFormat r.cfgSrcFmt) (ruleFormat r.cfgDstFmt) (r.cfgMode.toNat % 16)

/-- What the checks of CONSTRUCT do, in the terms of the rule: they report the first one that fails, or give the
configuration the registers hold. -/
theorem checkConfig_cases (r : InputRegs) :
    (∃ e, constructError r = some (errorCode e) ∧ checkConfig r = .error e) ∨
      (constructError r = none ∧ ∃ a, checkConfig r = .ok a ∧ CommitsFields r a) := by
  unfold constructError checkConfig
  have hmode : field r.cfgMode 0 4 = r.cfgMode.toNat % 16 := by simp [field]
  have hside : field r.cfgMode 8 6 = r.cfgMode.toNat / 2 ^ 8 % 64 := rfl
  simp only [formatOf_eq_ruleFormat, hmode, hside, modeOf_eq]
  by_cases h1 : 10 ≤ r.cfgMode.toNat % 16
  · rw [if_pos h1, List.getElem?_eq_none (by simpa [modesByNumber] using h1)]
    exact Or.inl ⟨_, rfl, rfl⟩
  obtain ⟨m, hm⟩ : ∃ m, modesByNumber[r.cfgMode.toNat % 16]? = some m :=
    ⟨_, List.getElem?_eq_getElem (by simpa [modesByNumber] using h1)⟩
  rw [if_neg h1, hm]
  dsimp only
  simp only [← formatLegal_iff, Bool.not_eq_true]
  by_cases h2 : formatLegal (ruleFormat r.cfgSrcFmt) = false
  · rw [if_pos h2, if_pos h2]
    exact Or.inl ⟨_, rfl, rfl⟩
  by_cases h3 : formatLegal (ruleFormat r.cfgDstFmt) = false
  · rw [if_neg h2, if_neg h2, if_pos h3, if_pos h3]
    exact Or.inl ⟨_, rfl, rfl⟩
  rw [if_neg h2, if_neg h2, if_neg h3, if_neg h3]
  by_cases h4 : r.cfgMode.toNat % 16 = 0 ∧ FastUnpaired (ruleFormat r.cfgSrcFmt) (ruleFormat r.cfgDstFmt)
  · obtain ⟨h0, hun⟩ := h4
    obtain rfl : m = .fast := by rw [h0] at hm; exact (Option.some.inj hm).symm
    rw [if_pos ⟨h0, hun⟩, selectRoutine_unpaired hun]
    exact Or.inl ⟨_, rfl, rfl⟩
  rw [if_neg (show ¬ (_ ∧ ¬ _) from h4), selectRoutine_eq hm h4]
  dsimp only
  by_cases h5 : r.cfgMode.toNat / 2 ^ 8 % 64 ∈ [1, 2, 4, 8, 16, 32]
  swap
  · rw [if_pos h5, if_pos ((not_patternSide_iff _).2 h5)]
    exact Or.inl ⟨_, rfl, rfl⟩
  rw [if_neg (not_not_intro h5), if_neg (fun hc => (not_patternSide_iff _).1 hc h5), checkAmplitudes_eq]
  by_cases h6 : r.cfgAmpo.toInt < 0 ∨ 65535 < r.cfgAmpo.toInt ∨ r.cfgAmpn.toInt < 0 ∨ 65535 < r.cfgAmpn.toInt
  · rw [if_pos h6, if_pos h6]
    exact Or.inl ⟨_, rfl, rfl⟩
  rw [if_neg h6, if_neg h6]
  dsimp only
  by_cases h7 : r.cfgPlanes.toNat % 4 = 3 ∨ r.cfgPlanes.toNat / 2 ^ 4 % 8 = 0 ∨ 4 < r.cfgPlanes.toNat / 2 ^ 4 % 8
  · rw [if_pos h7, checkPlanes_bad h7]
    exact Or.inl ⟨_, rfl, rfl⟩
  obtain ⟨family, hfamily, hplanes⟩ := checkPlanes_good h7
  rw [if_neg h7, hplanes]
  refine Or.inr ⟨rfl, _, rfl, ?_⟩
  exact
    { src := rfl, dst := rfl, side := rfl, mode := hm, dyn := rfl, static := rfl, corr := rfl, tpdfOut := rfl
      tpdfNoise := rfl, family := hfamily, count := rfl
      ampo := Int.toNat_of_nonneg (by omega), ampn := Int.toNat_of_nonneg (by omega), routine := rfl }

end Sys2Proof.Machine

open Sys2Proof Sys2Proof.Machine Sys2Proof.Claims

/-- Settles O43: CONSTRUCT does what its checks say, and they are the rule's. -/
theorem constructIsAllOrNothing : Obligations.ConstructIsAllOrNothing := by
  intro s
  rcases checkConfig_cases s.operands with ⟨e, hrule, hcheck⟩ | ⟨hrule, a, hcheck, ha⟩
  · have hexec : exec .construct s = .next (failWith e 0 s) := by
      rw [exec_construct, execConstruct, hcheck]
    refine ⟨fun code hcode => ?_, fun hnone => by rw [hrule] at hnone; cases hnone⟩
    obtain rfl := Option.some.inj (hrule.symm.trans hcode)
    exact hexec
  · have hexec : exec .construct s = .next (succeed (commitConfig a s)) := by
      rw [exec_construct, execConstruct, hcheck]
    refine ⟨fun code hcode => (by rw [hrule] at hcode; cases hcode), fun _ => ⟨_, hexec, fun _ => rfl, rfl, ?_⟩⟩
    exact ⟨ha.src, ha.dst, ha.side, ha.mode, ha.dyn, ha.static, ha.corr, ha.tpdfOut, ha.tpdfNoise, ha.family,
      ha.count, ha.ampo, ha.ampn, ha.routine⟩

end

section
/-! SUPPORT. Planes as sets of bytes, and the jobs that are refused for their planes. -/

namespace Sys2Proof.Machine

open Sys2Proof.Claims

/-! ### Planes and jobs (20_memory R84, R85, R95) -/

/-- The job registers hold the job of the rule (10_state R43 to R45). -/
theorem jobOf_eq_ruleJob (r : InputRegs) : jobOf r = ruleJob r := by
  simp [jobOf, ruleJob, planeIndexOf, field]

/-- An 8-bit sample has 1 byte (20_memory R84). -/
theorem containerSize_byte {f : Format} (hf : f.float = false) (hb : f.bits = 8) : containerSize f = 1 := by
  simp [containerSize, hf, hb]

/-- A wider integer sample has 2 bytes (20_memory R84). -/
theorem containerSize_wide {f : Format} (hf : f.float = false) (hb : 9 ≤ f.bits) : containerSize f = 2 := by
  simp [containerSize, hf, show ¬ f.bits ≤ 8 by omega]

/-- A float sample has 4 bytes (20_memory R84). -/
theorem containerSize_float {f : Format} (hf : f.float = true) : containerSize f = 4 := by
  simp [containerSize, hf]

/-- The address of a sample as a number (20_memory R85). -/
theorem addr_toInt (p : Plane) (x y : Nat) :
    ((p.addr x y).toNat : Int) = ((p.base.toNat : Int) + y * p.stride.toInt + x * p.size) % 2 ^ 32 := by
  rw [Plane.addr, sampleAddr, BitVec.toNat_ofInt]
  exact Int.toNat_of_nonneg (Int.emod_nonneg _ (by decide))

/-- A sample's address is its row's address moved right (20_memory R85). -/
theorem addr_eq_add (p : Plane) (x y : Nat) : p.addr x y = p.addr 0 y + BitVec.ofNat 32 (x * p.size) := by
  refine BitVec.eq_of_toNat_eq ?_
  rw [addr_toNat, BitVec.toNat_add, BitVec.toNat_ofNat, Nat.add_mod_mod]

/-- How far address `b` lies above address `a`, modulo 2^32. -/
theorem sub_toNat_eq (a b : Word) : (b - a).toNat = (b.toNat + (2 ^ 32 - a.toNat % 2 ^ 32)) % 2 ^ 32 := by
  rw [BitVec.toNat_sub]
  have := a.isLt
  omega

/-- A span's bytes are the addresses from its start on (20_memory R83). -/
theorem inSpan_toNat_iff (a b : Word) (n : Nat) :
    inSpan a.toNat n b.toNat = true ↔ ∃ i < n, b = a + BitVec.ofNat 32 i := by
  rw [inSpan, decide_eq_true_eq, ← sub_toNat_eq]
  constructor
  · intro h
    exact ⟨_, h, by rw [BitVec.ofNat_toNat, BitVec.setWidth_eq]; abel⟩
  · rintro ⟨i, hi, rfl⟩
    rw [show a + BitVec.ofNat 32 i - a = BitVec.ofNat 32 i by abel, BitVec.toNat_ofNat]
    exact (Nat.mod_le _ _).trans_lt hi

/-- A plane's bytes, row by row. -/
theorem holds_iff (p : Plane) (a : Word) :
    p.holds a = true ↔ ∃ y < p.height, ∃ k < p.width * p.size, a = p.addr 0 y + BitVec.ofNat 32 k := by
  simp only [Plane.holds, List.any_eq_true, List.mem_range, inSpan_toNat_iff]

/-- A plane's bytes are those of its samples (20_memory R85). -/
theorem holds_iff_sample (p : Plane) (a : Word) :
    p.holds a = true ↔ ∃ x < p.width, ∃ y < p.height, ∃ i < p.size, a = p.addr x y + BitVec.ofNat 32 i := by
  rw [holds_iff]
  constructor
  · rintro ⟨y, hy, k, hk, rfl⟩
    have hpos : 0 < p.size := Nat.pos_of_ne_zero fun h => by simp [h] at hk
    refine ⟨k / p.size, Nat.div_lt_of_lt_mul (by rwa [Nat.mul_comm]), y, hy, k % p.size, Nat.mod_lt _ hpos, ?_⟩
    rw [addr_eq_add p (k / p.size), add_assoc, ← BitVec.ofNat_add, Nat.div_add_mod']
  · rintro ⟨x, hx, y, hy, i, hi, rfl⟩
    refine ⟨y, hy, x * p.size + i, by nlinarith, ?_⟩
    rw [addr_eq_add p x, add_assoc, ← BitVec.ofNat_add]

/-- Spans meet when they share a byte; the second one may start at any number, which counts modulo 2^32. -/
theorem spansMeet_iff_word (a : Word) (n b m : Nat) :
    spansMeet a.toNat n b m = true ↔
      ∃ c : Word, inSpan a.toNat n c.toNat = true ∧ inSpan (BitVec.ofNat 32 b).toNat m c.toNat = true := by
  have hb : spansMeet a.toNat n b m = spansMeet a.toNat n (BitVec.ofNat 32 b).toNat m := by
    simp only [spansMeet, inSpan, BitVec.toNat_ofNat, Nat.mod_mod, Nat.mod_add_mod]
  rw [hb]
  generalize BitVec.ofNat 32 b = b
  simp only [spansMeet, Bool.and_eq_true, Bool.or_eq_true, decide_eq_true_eq, inSpan_iff a.isLt b.isLt,
    inSpan_iff b.isLt a.isLt]
  constructor
  · rintro ⟨⟨hn, hm⟩, h | h⟩
    · exact ⟨b, (inSpan_iff a.isLt b.isLt).2 h, (inSpan_iff b.isLt b.isLt).2 (by omega)⟩
    · exact ⟨a, (inSpan_iff a.isLt a.isLt).2 (by omega), (inSpan_iff b.isLt a.isLt).2 h⟩
  · rintro ⟨c, h1, h2⟩
    rw [inSpan_iff a.isLt c.isLt] at h1
    rw [inSpan_iff b.isLt c.isLt] at h2
    omega

/-- A plane lies on a device region when one of its bytes does (20_memory R88). -/
theorem onDevice_iff (p : Plane) (devices : List (Nat × Nat)) :
    p.onDevice devices = true ↔
      ∃ d ∈ devices, ∃ a : Word, p.holds a = true ∧ ∃ i < d.2, a = BitVec.ofNat 32 (d.1 + i) := by
  simp only [Plane.onDevice, Plane.holds, List.any_eq_true, List.mem_range, spansMeet_iff_word, inSpan_toNat_iff,
    BitVec.ofNat_add]
  constructor
  · rintro ⟨y, hy, d, hd, c, hp, hc⟩
    exact ⟨d, hd, c, ⟨y, hy, hp⟩, hc⟩
  · rintro ⟨d, hd, c, ⟨y, hy, hp⟩, hc⟩
    exact ⟨y, hy, d, hd, c, hp, hc⟩

/-! ### Refused jobs (20_memory R88, R95; log 15, 16, 30) -/

/-- Only ERRDIF uses the accumulator (46_engine R316). -/
theorem usesAccumulator_iff (r : Routine) : usesAccumulator r = true ↔ ∃ k, r = .errdif k := by
  cases r <;> simp [usesAccumulator]

/-- The alignment check of the model is the rule's (20_memory R86). -/
theorem aligned_iff (s : State) (j : JobLatch) :
    (aligned j.srcBase j.srcStride (containerSize s.act.src) &&
      aligned j.dstBase j.dstStride (containerSize s.act.dst)) = true ↔ JobAligned s j := by
  simp [aligned, JobAligned, and_assoc]

/-- The in-place COPY of 20_memory R95. -/
theorem inPlaceCopy_iff (act : ActiveConfig) (j : JobLatch) :
    inPlaceCopy act j = true ↔ act.routine = .copy ∧ j.srcBase = j.dstBase ∧ j.srcStride = j.dstStride := by
  simp [inPlaceCopy, and_assoc]

/-- Past its checks a job is refused or runs: overlap first, then devices (log 30). -/
theorem planJob_of_passes {s : State} {j : JobLatch} (h : JobPassesChecks s j) :
    planJob s =
      if ((sourcePlane s.act j).meets (destPlane s.act j) && !inPlaceCopy s.act j) = true then .refuse .planesOverlap
      else if ((sourcePlane s.act j).onDevice s.devices || (destPlane s.act j).onDevice s.devices) = true then
        .refuse .planeOnDevice
      else .run j := by
  obtain ⟨rfl, hvalid, hplane, hwidth, haligned, hw, hh⟩ := h
  unfold planJob
  dsimp only
  rw [if_neg (by simp [hvalid]), if_neg (by omega), if_neg ?width, if_neg ?aligned, if_neg (by omega)]
  case width =>
    rintro ⟨hu, hlt⟩
    have := hwidth ((usesAccumulator_iff _).1 hu)
    simp only [Config.maxW] at hlt
    omega
  case aligned =>
    rw [Bool.not_eq_false]
    exact (aligned_iff s _).2 haligned

/-- The planes of the job in the registers have rows shorter than memory. -/
theorem jobPlanes_rows (s : State) :
    (sourcePlane s.act (jobOf s.operands)).width * (sourcePlane s.act (jobOf s.operands)).size < 2 ^ 32 ∧
      (destPlane s.act (jobOf s.operands)).width * (destPlane s.act (jobOf s.operands)).size < 2 ^ 32 := by
  have hw := (jobOf_bounds s.operands).1
  have hsrc := containerSize_le s.act.src
  have hdst := containerSize_le s.act.dst
  simp only [sourcePlane, destPlane]
  constructor <;> nlinarith

/-- The planes of a job that passes its checks overlap when they share a byte (20_memory R95). -/
theorem overlap_iff {s : State} {j : JobLatch} (h : JobPassesChecks s j) :
    ((sourcePlane s.act j).meets (destPlane s.act j) && !inPlaceCopy s.act j) = true ↔
      SharesByte (sourcePlane s.act j) (destPlane s.act j) ∧
        ¬ (s.act.routine = .copy ∧ j.srcBase = j.dstBase ∧ j.srcStride = j.dstStride) := by
  obtain ⟨rfl, -⟩ := h
  rw [Bool.and_eq_true, Bool.not_eq_true', ← inPlaceCopy_iff, Bool.not_eq_true,
    meets_iff (jobPlanes_rows s).1 (jobPlanes_rows s).2]
  rfl

/-- PROCESS_PLANE is refused exactly when its plan says so. -/
theorem execProcessPlane_refused_iff (s : State) (q : Refusal) :
    exec .processPlane s = .refused q ↔ planJob s = .refuse q := by
  rw [exec_processPlane]
  rcases execProcessPlane_cases s with ⟨e, info, hp, he⟩ | ⟨hp, he⟩ | ⟨r, hp, he⟩ | ⟨j, r, hp, -, he⟩ | ⟨j, b, hp, -, he⟩ <;>
    simp [hp, he]

end Sys2Proof.Machine

open Sys2Proof Sys2Proof.Machine Sys2Proof.Claims

/-- Settles O46: what the planes are, and the two refusals read off the job's plan. -/
theorem overlappingJobsAreRefused : Obligations.OverlappingJobsAreRefused := by
  refine ⟨jobOf_eq_ruleJob, fun f => ⟨containerSize_byte, fun hf hb _ => containerSize_wide hf hb, containerSize_float⟩,
    fun _ _ => ⟨rfl, rfl⟩, addr_toInt, inSpan_toNat_iff, fun p a _ _ => holds_iff_sample p a,
    fun p devices _ _ => onDevice_iff p devices, fun s j h => ?_⟩
  simp only [ne_eq, execProcessPlane_refused_iff, ← overlap_iff h, ← Bool.or_eq_true, planJob_of_passes h]
  split_ifs <;> simp_all

end

section
/-! SUPPORT. HOST's writes to the input registers while a command runs: what the command reads is latched, and what it writes
overwrites them. -/

namespace Sys2Proof.Machine

open Sys2Proof.Claims

/-! ### What a command reads of the input registers (10_state R57) -/

/-- With a full latch the operands are the latched registers (46_engine R310). -/
theorem operands_of_latch {s : State} {l : Latch} (h : s.latch = some l) : s.operands = l.regs := by
  rw [State.operands, h]

/-- With an empty latch they are the registers as they stand (log 6). -/
theorem operands_of_no_latch {s : State} (h : s.latch = none) : s.operands = s.inp := by
  rw [State.operands, h]

/-- With a full latch HOST's later writes do not reach the operands (70_reset R392). -/
theorem operands_withInputs {s : State} {l : Latch} (h : s.latch = some l) (r : InputRegs) :
    State.operands { s with inp := r } = s.operands := by
  rw [operands_of_latch h, operands_of_latch (s := { s with inp := r }) h]

/-- A step of a job reads no input register. -/
theorem jobStep_withInputs (s : State) (r : InputRegs) (m : JobStep) (q : Run) :
    jobStep { s with inp := r } m q = jobStep s m q := by
  cases m <;> rfl

/-- A job reads no input register but its latched ones (46_engine R316). -/
theorem runSteps_withInputs (s : State) (r : InputRegs) (steps : List JobStep) (q : Run) :
    runSteps { s with inp := r } steps q = runSteps s steps q := by
  induction steps generalizing q with
  | nil => rfl
  | cons m t ih =>
    rw [runSteps, runSteps, jobStep_withInputs]
    cases jobStep s m q with
    | ok q' => exact ih q'
    | error b => rfl

/-- So does the whole job. -/
theorem runJob_withInputs (s : State) (r : InputRegs) (j : JobLatch) :
    runJob { s with inp := r } j = runJob s j :=
  runSteps_withInputs s r _ _

/-- The plan of a job is made from the latched registers. -/
theorem planJob_withInputs {s : State} {l : Latch} (h : s.latch = some l) (r : InputRegs) :
    planJob { s with inp := r } = planJob s := by
  unfold planJob
  rw [operands_withInputs h]
  rfl

/-- RNG_STATE after the finish of a job: written by the routines that draw noise (46_engine R319). -/
theorem finishJob_inp (q : Run) (s : State) :
    (finishJob q s).inp = if drawsNoise s.act.routine then { s.inp with rngState := q.work.ns } else s.inp := by
  unfold finishJob
  cases usesGain s.act.routine <;> cases drawsNoise s.act.routine <;> rfl

/-- The finish of a job over HOST's later values. -/
theorem finishJob_withInputs (q : Run) (s : State) (r : InputRegs) :
    finishJob q { s with inp := r } = { finishJob q s with
      inp := if drawsNoise s.act.routine then { r with rngState := q.work.ns } else r } := by
  unfold finishJob
  cases usesGain s.act.routine <;> cases drawsNoise s.act.routine <;> rfl

/-- A job that runs has passed its checks. -/
theorem passes_of_planJob_run {s : State} {j : JobLatch} (h : planJob s = .run j) :
    JobPassesChecks s (jobOf s.operands) := by
  obtain ⟨rfl, hvalid, hplane, hwidth, hsrc, hdst, hw, hh, -⟩ := (planJob_run_iff s j).1 h
  exact ⟨rfl, hvalid, hplane, fun hk => hwidth ((usesAccumulator_iff _).2 hk),
    (aligned_iff s _).1 (by rw [hsrc, hdst]; rfl), Nat.pos_of_ne_zero hw, Nat.pos_of_ne_zero hh⟩

/-! ### What a command makes of HOST's later values -/

/-- `u` is what the input registers hold after command `i`, when HOST wrote `r` to them after its acceptance in `s`, and
`t` is the state after the command when HOST wrote nothing: the command leaves them, writes RNG_STATE, writes QRS_PHASE,
or is SOFT_RESET (70_reset R392 items 3 and 6). -/
inductive LateInputs (i : Instr) (s : State) (r : InputRegs) (t : State) : InputRegs → Prop where
  | untouched (ht : t.inp = s.inp) (hi : i ∉ [.rngStep, .rngEol, .qrsNext, .softReset]) : LateInputs i s r t r
  | noise {ns : Word} (ht : t.inp = { s.inp with rngState := ns }) (hd : t.irqStatus = s.irqStatus ||| 0x1)
      (hi : i = .rngStep ∨ i = .rngEol ∨ i = .rngSeed ∨
        i = .processPlane ∧ JobPassesChecks s (jobOf s.operands) ∧ drawsNoise s.act.routine = true) :
      LateInputs i s r t { r with rngState := ns }
  | phase {qc : Word} (ht : t.inp = { s.inp with qrsPhase := qc }) (hd : t.irqStatus = s.irqStatus ||| 0x1)
      (hi : (∃ y, i = .qrsSeed y) ∨ i = .qrsNext) : LateInputs i s r t { r with qrsPhase := qc }
  | reset (hi : i = .softReset) : LateInputs i s r t t.inp

/-- `exec i` goes on from `s` and from `s` with HOST's later values alike, but for the input registers. -/
def LateWriteHarmless (i : Instr) (s : State) (r : InputRegs) (t : State) : Prop :=
  ∃ u, exec i { s with inp := r } = .next { t with inp := u } ∧ LateInputs i s r t u

/-- A command that needs a configuration, over HOST's later values: they stand, or what it writes over them does. -/
theorem whenConstructed_withInputs {i : Instr} {s t v : State} {r u : InputRegs} (h : whenConstructed i s v = .next t) :
    (t = succeed v ∧ whenConstructed i { s with inp := r } { v with inp := u } = .next { t with inp := u }) ∨
      (t.inp = s.inp ∧ whenConstructed i { s with inp := r } { v with inp := u } = .next { t with inp := r }) := by
  rcases whenConstructed_cases i s v with ⟨hc, he⟩ | ⟨hc, he⟩
  · obtain rfl := Host.Outcome.next.inj (he.symm.trans h)
    exact Or.inl ⟨rfl, if_pos hc⟩
  · obtain rfl := Host.Outcome.next.inj (he.symm.trans h)
    exact Or.inr ⟨rfl, if_neg (Bool.eq_false_iff.1 hc)⟩

/-- PAT_READ leaves the input registers (42_pattern R190). -/
theorem patRead_withInputs {px py rot : Nat} {s t : State} (r : InputRegs) (h : exec (.patRead px py rot) s = .next t) :
    LateWriteHarmless (.patRead px py rot) s r t := by
  rcases whenConstructed_withInputs (r := r) (u := r) h with ⟨rfl, he⟩ | ⟨ht, he⟩
  · exact ⟨r, he, .untouched rfl (by simp)⟩
  · exact ⟨r, he, .untouched ht (by simp)⟩

section

variable {s t : State} {l : Latch} (hl : s.latch = some l) (r : InputRegs)
include hl

/-- RNG_STEP overwrites RNG_STATE (41_noise R163). -/
theorem rngStep_withInputs (h : exec .rngStep s = .next t) : LateWriteHarmless .rngStep s r t := by
  obtain rfl := Host.Outcome.next.inj h
  refine ⟨{ r with rngState := ngStep s.operands.rngState }, ?_, .noise rfl rfl (Or.inl rfl)⟩
  rw [exec_rngStep, execRngStep, operands_withInputs hl]
  rfl

/-- RNG_EOL overwrites RNG_STATE (41_noise R164). -/
theorem rngEol_withInputs (h : exec .rngEol s = .next t) : LateWriteHarmless .rngEol s r t := by
  obtain rfl := Host.Outcome.next.inj h
  refine ⟨{ r with rngState := ngEol s.operands.rngState }, ?_, .noise rfl rfl (Or.inr (Or.inl rfl))⟩
  rw [exec_rngEol, execRngEol, operands_withInputs hl]
  rfl

/-- QRS_NEXT overwrites QRS_PHASE (43_quasirandom R215). -/
theorem qrsNext_withInputs (h : exec .qrsNext s = .next t) : LateWriteHarmless .qrsNext s r t := by
  obtain rfl := Host.Outcome.next.inj h
  refine ⟨{ r with qrsPhase := s.operands.qrsPhase + qgA1 }, ?_, .phase rfl rfl (Or.inr rfl)⟩
  rw [exec_qrsNext, execQrsNext, operands_withInputs hl]
  rfl

/-- RNG_SEED overwrites RNG_STATE, unless it ends in an error (41_noise R165). -/
theorem rngSeed_withInputs (h : exec .rngSeed s = .next t) : LateWriteHarmless .rngSeed s r t := by
  have hexec : exec .rngSeed { s with inp := r } = whenConstructed .rngSeed { s with inp := r } { s with inp := { r with
      rngState := ngSeed s.operands.jobFrame (planeIndexOf s.operands) s.act.static s.act.corr } } := by
    rw [exec_rngSeed, execRngSeed, operands_withInputs hl]
  unfold LateWriteHarmless
  rw [hexec]
  rcases whenConstructed_withInputs (r := r) (u := { r with
      rngState := ngSeed s.operands.jobFrame (planeIndexOf s.operands) s.act.static s.act.corr }) h with
    ⟨rfl, he⟩ | ⟨ht, he⟩
  · exact ⟨_, he, .noise rfl rfl (Or.inr (Or.inr (Or.inl rfl)))⟩
  · exact ⟨_, he, .untouched ht (by decide)⟩

/-- QRS_SEED overwrites QRS_PHASE, unless it ends in an error (43_quasirandom R214). -/
theorem qrsSeed_withInputs {y : Nat} (h : exec (.qrsSeed y) s = .next t) : LateWriteHarmless (.qrsSeed y) s r t := by
  have hexec : exec (.qrsSeed y) { s with inp := r } =
      whenConstructed (.qrsSeed y) { s with inp := r } { s with inp := { r with
        qrsPhase := qgSeed y s.operands.jobFrame (planeIndexOf s.operands) s.act.dyn s.act.corr } } := by
    rw [exec_qrsSeed, execQrsSeed, operands_withInputs hl]
  unfold LateWriteHarmless
  rw [hexec]
  rcases whenConstructed_withInputs (r := r) (u := { r with
      qrsPhase := qgSeed y s.operands.jobFrame (planeIndexOf s.operands) s.act.dyn s.act.corr }) h with
    ⟨rfl, he⟩ | ⟨ht, he⟩
  · exact ⟨_, he, .phase rfl rfl (Or.inl ⟨y, rfl⟩)⟩
  · exact ⟨_, he, .untouched ht (by simp)⟩

/-- GAIN_QUERY leaves the input registers (45_scale R284). -/
theorem gainQuery_withInputs (h : exec .gainQuery s = .next t) : LateWriteHarmless .gainQuery s r t := by
  have hexec : exec .gainQuery { s with inp := r } = whenConstructed .gainQuery { s with inp := r }
      { showGain (gainQ32 s.act.src s.act.dst (isChroma s.act.family (planeIndexOf s.operands)))
        (offsetQ32 s.act.src s.act.dst (isChroma s.act.family (planeIndexOf s.operands))) s with inp := r } := by
    rw [exec_gainQuery, execGainQuery, operands_withInputs hl]
    rfl
  unfold LateWriteHarmless
  rw [hexec]
  rcases whenConstructed_withInputs (r := r) (u := r) h with ⟨rfl, he⟩ | ⟨ht, he⟩
  · exact ⟨r, he, .untouched rfl (by decide)⟩
  · exact ⟨r, he, .untouched ht (by decide)⟩

/-- CONSTRUCT reads the latched staging registers and leaves those HOST sees (46_engine R312). -/
theorem construct_withInputs (h : exec .construct s = .next t) : LateWriteHarmless .construct s r t := by
  refine ⟨r, ?_, ?_⟩
  all_goals
    rcases execConstruct_cases s with ⟨e, hcheck, he⟩ | ⟨a, hcheck, he⟩ <;>
    obtain rfl := Host.Outcome.next.inj (he.symm.trans h)
  · rw [exec_construct, execConstruct, operands_withInputs hl, hcheck]; rfl
  · rw [exec_construct, execConstruct, operands_withInputs hl, hcheck]; rfl
  · exact .untouched rfl (by decide)
  · exact .untouched rfl (by decide)

/-- ED_SPLIT reads the latched ED_ERR_IN and leaves the input registers (44_error_diffusion R246). -/
theorem edSplit_withInputs {idx : Nat} (h : exec (.edSplit idx) s = .next t) :
    LateWriteHarmless (.edSplit idx) s r t := by
  rcases execEdSplit_cases idx s with ⟨hc, he⟩ | ⟨hc, hr, he⟩ | ⟨k, sl, hc, hr, hsl, he⟩ <;>
    obtain rfl := Host.Outcome.next.inj (he.symm.trans h)
  all_goals
    refine ⟨r, ?_, .untouched rfl (by simp)⟩
    rw [exec_edSplit, execEdSplit, operands_withInputs hl]
  · exact if_neg (Bool.eq_false_iff.1 hc)
  · refine (if_pos hc).trans ?_
    split
    · next k hk => exact absurd hk (hr k)
    · rfl
  · refine (if_pos hc).trans ?_
    dsimp only
    rw [hr, hsl]
    rfl

/-- PROCESS_PLANE runs the job of the latched registers; the end of a job that draws noise overwrites RNG_STATE
(46_engine R316, R319). -/
theorem processPlane_withInputs (h : exec .processPlane s = .next t) : LateWriteHarmless .processPlane s r t := by
  unfold LateWriteHarmless
  rw [exec_processPlane, execProcessPlane, planJob_withInputs hl]
  rcases execProcessPlane_cases s with
    ⟨e, info, hp, he⟩ | ⟨hp, he⟩ | ⟨q, hp, he⟩ | ⟨j, q, hp, hr, he⟩ | ⟨j, b, hp, hr, he⟩ <;> rw [hp]
  · obtain rfl := Host.Outcome.next.inj (he.symm.trans h)
    exact ⟨r, rfl, .untouched rfl (by decide)⟩
  · obtain rfl := Host.Outcome.next.inj (he.symm.trans h)
    exact ⟨r, rfl, .untouched rfl (by decide)⟩
  · cases he.symm.trans h
  · obtain rfl := Host.Outcome.next.inj (he.symm.trans h)
    dsimp only
    rw [runJob_withInputs, hr]
    dsimp only
    rw [finishJob_withInputs]
    refine ⟨_, rfl, ?_⟩
    have hinp := finishJob_inp q s
    cases hn : drawsNoise s.act.routine
    · rw [hn] at hinp
      exact .untouched hinp (by decide)
    · rw [hn] at hinp
      exact .noise hinp (congrArg setDone (finishJob_irqStatus q s))
        (Or.inr (Or.inr (Or.inr ⟨rfl, passes_of_planJob_run hp, hn⟩)))
  · obtain rfl := Host.Outcome.next.inj (he.symm.trans h)
    dsimp only
    rw [runJob_withInputs, hr]
    exact ⟨r, rfl, .untouched rfl (by decide)⟩

/-- No command's outcome depends on what HOST writes to the input registers after its acceptance (70_reset R392). -/
theorem exec_withInputs {i : Instr} (h : exec i s = .next t) : LateWriteHarmless i s r t := by
  cases i with
  | nop => obtain rfl := Host.Outcome.next.inj h; exact ⟨r, rfl, .untouched rfl (by decide)⟩
  | construct => exact construct_withInputs hl r h
  | processPlane => exact processPlane_withInputs hl r h
  | softReset => obtain rfl := Host.Outcome.next.inj h; exact ⟨_, rfl, .reset rfl⟩
  | rngStep => exact rngStep_withInputs hl r h
  | rngEol => exact rngEol_withInputs hl r h
  | rngSeed => exact rngSeed_withInputs hl r h
  | qrsSeed y => exact qrsSeed_withInputs hl r h
  | qrsNext => exact qrsNext_withInputs hl r h
  | patRead px py rot => exact patRead_withInputs r h
  | gainQuery => exact gainQuery_withInputs hl r h
  | edSplit idx => exact edSplit_withInputs hl r h

end

/-- A refusal does not depend on them either: only PROCESS_PLANE refuses, by the plan of the latched job. -/
theorem exec_refused_withInputs {i : Instr} {s : State} {l : Latch} (hl : s.latch = some l) (r : InputRegs)
    {q : Refusal} (h : exec i s = .refused q) : exec i { s with inp := r } = .refused q := by
  have hcfg : ∀ (i : Instr) (t : State), whenConstructed i s t ≠ .refused q := fun i t hw => by
    rcases whenConstructed_cases i s t with ⟨-, he⟩ | ⟨-, he⟩ <;> cases he.symm.trans hw
  cases i with
  | processPlane =>
    rw [execProcessPlane_refused_iff] at h ⊢
    rw [planJob_withInputs hl]
    exact h
  | construct => rcases execConstruct_cases s with ⟨e, -, he⟩ | ⟨a, -, he⟩ <;> cases he.symm.trans h
  | edSplit idx =>
    rcases execEdSplit_cases idx s with ⟨-, he⟩ | ⟨-, -, he⟩ | ⟨k, sl, -, -, -, he⟩ <;> cases he.symm.trans h
  | rngSeed => exact absurd h (hcfg _ _)
  | qrsSeed y => exact absurd h (hcfg _ _)
  | patRead px py rot => exact absurd h (hcfg _ _)
  | gainQuery => exact absurd h (hcfg _ _)
  | nop => cases h
  | softReset => cases h
  | rngStep => cases h
  | rngEol => cases h
  | qrsNext => cases h

end Sys2Proof.Machine

open Sys2Proof Sys2Proof.Machine Sys2Proof.Claims

/-- Settles O9: HOST's later values stand, but for RNG_STATE or QRS_PHASE where the command writes it. -/
theorem latchedOperandsDecideTheOutcome : Obligations.LatchedOperandsDecideTheOutcome := by
  refine ⟨fun s h => operands_of_no_latch h, fun i s l r hl => ⟨operands_of_latch hl, fun t h => ?_,
    fun q hq => exec_refused_withInputs hl r hq⟩⟩
  obtain ⟨u, hu, hlate⟩ := exec_withInputs hl r h
  refine ⟨u, hu, ?_⟩
  cases hlate with
  | untouched ht hi =>
    simp only [List.mem_cons, List.not_mem_nil, or_false, not_or] at hi
    simp [ht, hi]
  | noise ht hd hi =>
    refine ⟨Or.inr rfl, Or.inl (by rw [ht]), Or.inr ⟨by rw [ht], rfl⟩, fun _ => by rw [ht], ?_, ?_, fun _ _ _ => rfl,
      fun _ hne => absurd hd hne, ?_⟩
    · rintro rfl
      simp at hi
    · intro h1 h2 h3 h4 _
      simp [h1, h2, h3, h4] at hi
    · rintro rfl hroutine
      simp only [reduceCtorEq, false_or, true_and] at hi
      obtain ⟨hpass, hdraws⟩ := hi
      rcases hroutine with hfail | hr | hr | hr
      · exact absurd hpass hfail
      all_goals
        rw [hr] at hdraws
        cases hdraws
  | phase ht hd hi =>
    refine ⟨Or.inr rfl, Or.inr ⟨by rw [ht], rfl⟩, Or.inl (by rw [ht]), ?_, fun _ => by rw [ht], fun _ _ _ _ _ => rfl, ?_,
      fun _ hne => absurd hd hne, ?_⟩
    · rintro (rfl | rfl) <;> simp at hi
    · intro hseed hnext _
      rcases hi with ⟨y, hy⟩ | hi
      · exact absurd hy (hseed y)
      · exact absurd hi hnext
    · rintro rfl
      simp at hi
  | reset hi =>
    subst hi
    simp

end

section
/-! SUPPORT. HOST's accesses to the register window: which are refused, which register each offset shows, and what a write
does to the register at its offset. -/

namespace Sys2Proof.Machine

open Sys2Proof.Claims

/-! ### Accesses without a meaning (20_memory R81, 10_state R51; log 19) -/

/-- An access beyond the window is named so, whatever its width. -/
theorem windowProblem_outside {off : Nat} (h : 256 ≤ off) (width : Nat) : windowProblem off width = some .outsideWindow :=
  if_pos h

/-- Inside the window an access of another width, or at a misaligned offset, is a bad one. -/
theorem windowProblem_bad {off width : Nat} (h : off < 256) (hbad : width ≠ 32 ∨ off % 4 ≠ 0) :
    windowProblem off width = some .badWindowAccess := by
  rw [windowProblem, if_neg (by omega), if_pos hbad]

/-- An aligned 32-bit access inside the window has a meaning. -/
theorem windowProblem_aligned {off : Nat} (h : off < 256) (ha : off % 4 = 0) : windowProblem off 32 = none := by
  rw [windowProblem, if_neg (by omega), if_neg (by omega)]

/-- Reads and writes with a problem are refused by its name. -/
theorem hostOperation_refused {off width : Nat} {q : Refusal} (h : windowProblem off width = some q) (v : Word)
    (s : State) :
    hostOperation (.read off width) s = .refused q ∧ hostOperation (.write off width v) s = .refused q := by
  simp [hostOperation, h]

/-- Reads and writes without one are done (20_memory R82). -/
theorem hostOperation_done {off width : Nat} (h : windowProblem off width = none) (v : Word) (s : State) :
    hostOperation (.read off width) s = .next (recordRead off s) ∧
      hostOperation (.write off width v) s = .next (writeRegister off v s) := by
  simp [hostOperation, h]

/-! ### The register at each offset (30_encoding R110) -/

/-- Every offset shows the register it is listed with. -/
theorem readRegister_shown (s : State) : ∀ p ∈ shownRegisters s, readRegister p.1 s = p.2 :=
  List.map_inj_left.1 rfl

/-- A write to a read-write register leaves what every other offset shows (20_memory R82). -/
theorem readRegister_writeRegister_ne (v : Word) (s : State) :
    ∀ off ∈ rwOffsets, ∀ off' ≠ off, readRegister off' (writeRegister off v s) = readRegister off' s := by
  simp only [rwOffsets, List.forall_mem_cons, List.not_mem_nil, false_imp_iff, implies_true, and_true]
  refine ⟨?_, ?_, ?_, ?_, ?_, ?_, ?_, ?_, ?_, ?_, ?_, ?_, ?_, ?_, ?_, ?_, ?_, ?_⟩
  all_goals
    intro off' hne
    unfold readRegister
    -- the offset shows another field, or is the one written
    split <;> first | rfl | exact absurd rfl hne

/-- A read-write register shows the defined bits of what was written to it (20_memory R82). -/
theorem readRegister_writeRegister_self (v : Word) (s : State) :
    ∀ off ∈ rwOffsets, readRegister off (writeRegister off v s) = v &&& definedBits off := by
  have hall : v = v &&& 0xFFFFFFFF := BitVec.and_allOnes.symm
  simp only [rwOffsets, List.forall_mem_cons, List.not_mem_nil, false_imp_iff, implies_true, and_true]
  exact ⟨rfl, rfl, rfl, rfl, rfl, hall, hall, hall, hall, hall, hall, rfl, rfl, hall, rfl, hall, hall, hall⟩

/-- A write to a read-write register changes the input registers or IRQ_EN only, and twice is as good as once. -/
theorem writeRegister_rw (v : Word) (s : State) :
    ∀ off ∈ rwOffsets,
      writeRegister off v s = { s with inp := (writeRegister off v s).inp, irqEn := (writeRegister off v s).irqEn } ∧
        writeRegister off v (writeRegister off v s) = writeRegister off v s := by
  simp only [rwOffsets, List.forall_mem_cons, List.not_mem_nil, false_imp_iff, implies_true, and_true]
  refine ⟨?_, ?_, ?_, ?_, ?_, ?_, ?_, ?_, ?_, ?_, ?_, ?_, ?_, ?_, ?_, ?_, ?_, ?_⟩ <;> exact ⟨rfl, rfl⟩

/-- A write to any offset but those of the read-write registers, CMD and IRQ_STATUS is ignored (20_memory R82). -/
theorem writeRegister_ignored {off : Nat} (hcmd : off ≠ 0x08) (hirq : off ≠ 0x18) (h : off ∉ rwOffsets) (v : Word)
    (s : State) : writeRegister off v s = s := by
  have hinp : writeInput off v s.inp = s.inp := by
    unfold writeInput
    split
    case h_18 => rfl
    all_goals exact absurd (by decide) h
  unfold writeRegister
  split
  · exact absurd rfl hcmd
  · exact absurd (by decide) h
  · exact absurd rfl hirq
  · rw [hinp]

end Sys2Proof.Machine

open Sys2Proof Sys2Proof.Machine Sys2Proof.Claims

/-- Settles O11. -/
theorem meaninglessWindowAccessesAreRefused : Obligations.MeaninglessWindowAccessesAreRefused :=
  fun s _ width v => ⟨fun h => hostOperation_refused (windowProblem_outside h width) v s,
    fun h hbad => hostOperation_refused (windowProblem_bad h hbad) v s⟩

/-- Settles O10: the register map read off its list, and the read-write registers one by one. -/
theorem windowAccessesDoWhatTheirRegisterSays : Obligations.WindowAccessesDoWhatTheirRegisterSays := by
  refine ⟨readRegister_shown, fun s off v hoff ha => ?_⟩
  obtain ⟨hread, hwrite⟩ := hostOperation_done (windowProblem_aligned hoff ha) v s
  refine ⟨hread, hwrite, ?cmd, ?irqStatus, fun hrw => ⟨readRegister_writeRegister_self v s off hrw,
    readRegister_writeRegister_ne v s off hrw, (writeRegister_rw v s off hrw).1⟩,
    fun hcmd hirq hrw => writeRegister_ignored hcmd hirq hrw v s, fun hcmd hirq => ?twice⟩
  case cmd => rintro rfl; rfl
  case irqStatus => rintro rfl; rfl
  case twice =>
    by_cases hrw : off ∈ rwOffsets
    · exact (writeRegister_rw v s off hrw).2
    · rw [writeRegister_ignored hcmd hirq hrw, writeRegister_ignored hcmd hirq hrw]

end

section
/-! SUPPORT. Which commands stop: only PROCESS_PLANE, by the two refusals of its plan. -/

namespace Sys2Proof.Machine

/-- A command that needs a configuration goes on, with or without one (60_exceptions R365). -/
theorem whenConstructed_goesOn (i : Instr) (s t : State) : ∃ u, whenConstructed i s t = .next u := by
  rcases whenConstructed_cases i s t with ⟨-, he⟩ | ⟨-, he⟩ <;> exact ⟨_, he⟩

/-- Every command but PROCESS_PLANE goes on: it completes, or it is SOFT_RESET (46_engine R311, R315). -/
theorem exec_goesOn {i : Instr} (hi : i ≠ .processPlane) (s : State) : ∃ t, exec i s = .next t := by
  cases i with
  | processPlane => exact absurd rfl hi
  | construct => rcases execConstruct_cases s with ⟨e, -, he⟩ | ⟨a, -, he⟩ <;> exact ⟨_, he⟩
  | edSplit idx =>
    rcases execEdSplit_cases idx s with ⟨-, he⟩ | ⟨-, -, he⟩ | ⟨k, sl, -, -, -, he⟩ <;> exact ⟨_, he⟩
  | rngSeed => exact whenConstructed_goesOn ..
  | qrsSeed y => exact whenConstructed_goesOn ..
  | patRead px py rot => exact whenConstructed_goesOn ..
  | gainQuery => exact whenConstructed_goesOn ..
  | nop => exact ⟨_, rfl⟩
  | softReset => exact ⟨_, rfl⟩
  | rngStep => exact ⟨_, rfl⟩
  | rngEol => exact ⟨_, rfl⟩
  | qrsNext => exact ⟨_, rfl⟩

/-- PROCESS_PLANE goes on or is refused (46_engine R316). -/
theorem execProcessPlane_ne_fault (s : State) (f : Fault) : execProcessPlane s ≠ .fault f := by
  rcases execProcessPlane_cases s with ⟨_, _, -, he⟩ | ⟨-, he⟩ | ⟨_, -, he⟩ | ⟨_, _, -, -, he⟩ | ⟨_, _, -, -, he⟩
  all_goals simp [he]

/-- The plan of a job refuses it for overlapping planes or for a plane on a device (20_memory R88, R95). -/
theorem planJob_refuse {s : State} {q : Refusal} (h : planJob s = .refuse q) : q = .planesOverlap ∨ q = .planeOnDevice := by
  unfold planJob at h
  dsimp only at h
  split_ifs at h <;> cases h
  · exact Or.inl rfl
  · exact Or.inr rfl

end Sys2Proof.Machine

open Sys2Proof Sys2Proof.Machine Sys2Proof.Claims

/-- Settles O8. -/
theorem onlyRefusedJobsStop : Obligations.OnlyRefusedJobsStop := by
  intro i s
  by_cases hi : i = .processPlane
  · subst hi
    exact ⟨execProcessPlane_ne_fault s, fun q hq => ⟨rfl, planJob_refuse ((execProcessPlane_refused_iff s q).1 hq)⟩⟩
  · obtain ⟨t, ht⟩ := exec_goesOn hi s
    simp [ht]

end

section
/-! SUPPORT. `MemRead` and `MemWrite` byte by byte, and the in-place COPY, which writes back what it read. -/

namespace Sys2Proof.Machine

/-! ### Plane memory byte by byte (20_memory R83) -/

/-- The address after `a`, and i on from there. -/
theorem succ_add_ofNat (a : Word) (i : Nat) : a + 1 + BitVec.ofNat 32 i = a + BitVec.ofNat 32 (i + 1) := by
  rw [add_assoc, show (1 : Word) = BitVec.ofNat 32 1 from rfl, ← BitVec.ofNat_add, Nat.add_comm]

/-- `MemRead` is the little-endian sum of the bytes. -/
theorem memRead_eq_sum (m : Memory) (a : Word) (n : Nat) :
    memRead m a n = ∑ i ∈ Finset.range n, (memByte m (a + BitVec.ofNat 32 i)).toNat * 2 ^ (8 * i) := by
  induction n generalizing a with
  | zero => rfl
  | succ n ih =>
    rw [memRead, ih, Finset.sum_range_succ', Finset.mul_sum, Nat.add_comm]
    congr 1
    · refine Finset.sum_congr rfl fun i _ => ?_
      rw [succ_add_ofNat, Nat.mul_add, Nat.pow_add]
      ring
    · simp

/-- `MemRead` reads its n bytes only. -/
theorem memRead_congr {m m' : Memory} {a : Word} {n : Nat}
    (h : ∀ i < n, memByte m (a + BitVec.ofNat 32 i) = memByte m' (a + BitVec.ofNat 32 i)) :
    memRead m a n = memRead m' a n := by
  rw [memRead_eq_sum, memRead_eq_sum]
  exact Finset.sum_congr rfl fun i hi => by rw [h i (Finset.mem_range.1 hi)]

/-- The first address is none of the fewer than 2^32 that follow it. -/
theorem not_inSpan_succ (a : Word) {n : Nat} (hn : n < 2 ^ 32) : inSpan (a + 1).toNat n a.toNat = false := by
  rw [Bool.eq_false_iff, ne_eq, inSpan_toNat_iff]
  rintro ⟨i, hi, h⟩
  rw [succ_add_ofNat, left_eq_add] at h
  have := congrArg BitVec.toNat h
  rw [BitVec.toNat_ofNat, Nat.mod_eq_of_lt (by omega)] at this
  exact absurd this (Nat.succ_ne_zero i)

/-- `MemWrite` stores v[8i+7:8i] at u32(a+i), for at most 2^32 bytes. -/
theorem memByte_memWrite {m : Memory} (hm : Memory.wf m = true) (a : Word) {n : Nat} (hn : n ≤ 2 ^ 32) (v : Nat) {i : Nat}
    (hi : i < n) : memByte (memWrite m a n v) (a + BitVec.ofNat 32 i) = BitVec.ofNat 8 (v / 2 ^ (8 * i)) := by
  induction n generalizing m a v i with
  | zero => omega
  | succ n ih =>
    rw [memWrite]
    cases i with
    | zero =>
      rw [show a + BitVec.ofNat 32 0 = a from BitVec.add_zero a, Nat.mul_zero, Nat.pow_zero, Nat.div_one,
        memByte_memWrite_of_outside _ (not_inSpan_succ a (by omega)), memByte_memSetByte_self a _ hm]
    | succ i =>
      rw [← succ_add_ofNat, ih (memSetByte_wf a _ hm) (a + 1) (by omega) (v / 256) (by omega), Nat.div_div_eq_div_mul,
        show 256 * 2 ^ (8 * i) = 2 ^ (8 * (i + 1)) by ring]

/-- `MemWrite` touches no byte but its own n. -/
theorem memByte_memWrite_ne {m : Memory} {a b : Word} {n : Nat} (v : Nat) (h : ∀ i < n, b ≠ a + BitVec.ofNat 32 i) :
    memByte (memWrite m a n v) b = memByte m b := by
  refine memByte_memWrite_of_outside v ?_
  rw [Bool.eq_false_iff, ne_eq, inSpan_toNat_iff]
  rintro ⟨i, hi, he⟩
  exact h i hi he

/-- `MemRead` of n bytes that hold v gives the low 8n bits of v. -/
theorem memRead_of_bytes {m : Memory} {a : Word} {n v : Nat}
    (h : ∀ i < n, memByte m (a + BitVec.ofNat 32 i) = BitVec.ofNat 8 (v / 2 ^ (8 * i))) :
    memRead m a n = v % 2 ^ (8 * n) := by
  induction n generalizing a v with
  | zero => simp [memRead, Nat.mod_one]
  | succ n ih =>
    have hhead : memByte m a = BitVec.ofNat 8 v := by simpa using h 0 (by omega)
    have htail := ih (a := a + 1) (v := v / 256) fun i hi => by
      rw [succ_add_ofNat, h (i + 1) (by omega), Nat.div_div_eq_div_mul, show 256 * 2 ^ (8 * i) = 2 ^ (8 * (i + 1)) by ring]
    rw [memRead, hhead, htail, show 2 ^ (8 * (n + 1)) = 256 * 2 ^ (8 * n) by ring, Nat.mod_mul, BitVec.toNat_ofNat]

/-- `MemRead` after `MemWrite` gives the low 8n bits written. -/
theorem memRead_memWrite {m : Memory} (hm : Memory.wf m = true) (a : Word) {n : Nat} (hn : n ≤ 2 ^ 32) (v : Nat) :
    memRead (memWrite m a n v) a n = v % 2 ^ (8 * n) :=
  memRead_of_bytes fun _ hi => memByte_memWrite hm a hn v hi

end Sys2Proof.Machine

open Sys2Proof Sys2Proof.Machine Sys2Proof.Claims

/-- Settles O19. -/
theorem planeMemoryIsLittleEndian : Obligations.PlaneMemoryIsLittleEndian :=
  fun m a n v hm hn => ⟨memRead_eq_sum m a n, fun _ hi => memByte_memWrite hm a (by omega) v hi,
    fun _ hb => memByte_memWrite_ne v hb, memRead_memWrite hm a (by omega) v⟩

namespace Sys2Proof.Machine

open Sys2Proof.Claims

/-! ### The in-place COPY (20_memory R95) -/

/-- Writing a byte back where it was read changes nothing. -/
theorem memSetByte_memByte {m : Memory} (hm : Memory.wf m = true) (a : Word) : memSetByte m a (memByte m a) = m := by
  refine cells_ext (memSetByte_wf a _ hm) hm fun k => ?_
  by_cases hk : k = a.toNat
  · subst hk
    exact memByte_memSetByte_self a _ hm
  · exact cellGet_cellSet_ne _ _ hk

/-- Writing back what was read changes nothing. -/
theorem memWrite_memRead {m : Memory} (hm : Memory.wf m = true) (a : Word) (n : Nat) :
    memWrite m a n (memRead m a n) = m := by
  induction n generalizing a with
  | zero => rfl
  | succ n ih =>
    have hbyte : BitVec.ofNat 8 (memRead m a (n + 1)) = memByte m a := by
      refine BitVec.eq_of_toNat_eq ?_
      have := (memByte m a).isLt
      rw [memRead, BitVec.toNat_ofNat]
      omega
    have hrest : memRead m a (n + 1) / 256 = memRead m (a + 1) n := by
      have := (memByte m a).isLt
      rw [memRead]
      omega
    rw [memWrite, hbyte, hrest, memSetByte_memByte hm, ih]

/-- A step of an in-place COPY writes back the sample it read. -/
theorem jobStep_inPlaceCopy {s : State} {m : JobStep} {r r' : Run} (hcopy : s.act.routine = .copy)
    (hplanes : sourcePlane s.act r.work.j = destPlane s.act r.work.j) (hm : Memory.wf r.mem = true)
    (h : jobStep s m r = .ok r') : r'.mem = r.mem := by
  cases m with
  | rowStart y => cases h; rfl
  | rowEnd y => cases h; rfl
  | pixel x y =>
    obtain ⟨f, g, -, -, rfl⟩ := pixelStep_ok h
    simp only [pixelResult, pixelValue, hcopy, copyPixel, hplanes]
    exact memWrite_memRead hm _ _

/-- An in-place COPY that ends leaves the memory it found. -/
theorem runJob_inPlaceCopy {s : State} {j : JobLatch} {r : Run} (hcopy : s.act.routine = .copy)
    (hplanes : sourcePlane s.act j = destPlane s.act j) (hm : Memory.wf s.mem = true) (h : runJob s j = .ok r) :
    r.mem = s.mem := by
  refine (runSteps_induct (P := fun q => q.work.j = j ∧ q.mem = s.mem) ?_ ⟨rfl, rfl⟩ h).2
  rintro m - q q' ⟨hj, hq⟩ hstep
  exact ⟨(jobStep_constants hstep).1.trans hj,
    (jobStep_inPlaceCopy hcopy (by rw [hj, hplanes]) (by rw [hq, hm]) hstep).trans hq⟩

/-- The finish of a job leaves the memory the job made (46_engine R319). -/
theorem finishJob_mem (r : Run) (s : State) : (finishJob r s).mem = r.mem := by
  rw [finishJob_frame]

/-- A job that is accepted is one that runs (46_engine R316). -/
theorem planJob_of_accepted {s : State} {j : JobLatch} (h : JobAccepted s j) : planJob s = .run j := by
  obtain ⟨hpass, hshare, hsrc, hdst⟩ := h
  rw [planJob_of_passes hpass, if_neg, if_neg (by simp [hsrc, hdst])]
  rw [overlap_iff hpass]
  rintro ⟨hs, hn⟩
  exact hn (hshare hs)

/-- An accepted job ends with its finish, or with the bus error of the run it abandons (46_engine R316). -/
theorem exec_of_accepted {s : State} {j : JobLatch} (h : JobAccepted s j) :
    (∃ r, runJob s j = .ok r ∧ exec .processPlane s = .next (succeed (finishJob r s))) ∨
      ∃ b, runJob s j = .error b ∧ exec .processPlane s = .next (failWith .busError b.addr (abandonJob b.run s)) := by
  rw [exec_processPlane, execProcessPlane, planJob_of_accepted h]
  dsimp only
  cases hr : runJob s j with
  | ok r => exact Or.inl ⟨r, rfl, rfl⟩
  | error b => exact Or.inr ⟨b, rfl, rfl⟩

/-- With no access to fail an accepted job ends with its finish (20_memory R87; log 8). -/
theorem exec_of_accepted_noFail {s : State} {j : JobLatch} (h : JobAccepted s j) (hf : s.busFail = []) :
    ∃ r, runJob s j = .ok r ∧ r.busFail = [] ∧ exec .processPlane s = .next (succeed (finishJob r s)) := by
  obtain ⟨r, hr, hrf⟩ := runSteps_busFail_nil (s := s) (steps := jobSteps s.act.routine j.width j.height)
    (r := jobSetup s j) hf
  rcases exec_of_accepted h with ⟨r', hr', he⟩ | ⟨b, hb, -⟩
  · cases hr.symm.trans hr'
    exact ⟨r, hr, hrf, he⟩
  · cases hb.symm.trans hr

end Sys2Proof.Machine

/-- Settles O50: every sample is written back as it was read. -/
theorem inPlaceCopyLeavesMemory : Obligations.InPlaceCopyLeavesMemory := by
  intro s t j hj hf hm hcopy hsize hbase hstride ht
  have hplanes : sourcePlane s.act j = destPlane s.act j := by
    simp only [sourcePlane, destPlane, hsize, hbase, hstride]
  obtain ⟨r, hr, -, he⟩ := exec_of_accepted_noFail hj hf
  cases he.symm.trans ht
  have hmem : (succeed (finishJob r s)).mem = s.mem := by
    rw [succeed_mem, finishJob_mem, runJob_inPlaceCopy hcopy hplanes hm hr]
  exact ⟨hmem, fun a => by rw [hmem]⟩

end

section
/-! SUPPORT. The accesses of a job, counted; the samples it writes, in order; and which of them memory holds when an access
fails. -/

namespace Sys2Proof.Machine

open Sys2Proof.Claims

/-! ### The pixels of a job, in order (46_engine R320, R321) -/

/-- The pixel of a step, if it is one. -/
def JobStep.pixel? : JobStep → Option (Nat × Nat)
  | .rowStart _ => none
  | .pixel x y => some (x, y)
  | .rowEnd _ => none

/-- The pixels of a list of steps, in order. -/
def pixelsOf (steps : List JobStep) : List (Nat × Nat) := steps.filterMap JobStep.pixel?

@[simp] theorem pixelsOf_nil : pixelsOf [] = [] := rfl
@[simp] theorem pixelsOf_rowStart (y : Nat) (t : List JobStep) : pixelsOf (.rowStart y :: t) = pixelsOf t := rfl
@[simp] theorem pixelsOf_rowEnd (y : Nat) (t : List JobStep) : pixelsOf (.rowEnd y :: t) = pixelsOf t := rfl
@[simp] theorem pixelsOf_pixel (x y : Nat) (t : List JobStep) : pixelsOf (.pixel x y :: t) = (x, y) :: pixelsOf t := rfl

/-- A row has its columns as pixels, in their order. -/
theorem pixelsOf_rowSteps (r : Routine) (w y : Nat) :
    pixelsOf (rowSteps r w y) = (columnOrder r w y).map fun x => (x, y) := by
  have hpixel : JobStep.pixel? ∘ (fun x => JobStep.pixel x y) = some ∘ fun x => (x, y) := rfl
  rw [rowSteps, pixelsOf_rowStart, pixelsOf, List.filterMap_append, List.filterMap_map, hpixel, ← List.filterMap_map,
    List.filterMap_some]
  simp [JobStep.pixel?]

/-- A job has the pixels of its rows, top to bottom. -/
theorem pixelsOf_jobSteps (r : Routine) (w h : Nat) :
    pixelsOf (jobSteps r w h) = (List.range h).flatMap fun y => (columnOrder r w y).map fun x => (x, y) := by
  rw [pixelsOf, jobSteps, List.filterMap_flatMap]
  exact congrArg (List.range h).flatMap (funext fun y => pixelsOf_rowSteps r w y)

/-- Row y has as many pixels as the plane has columns. -/
theorem columnOrder_length (r : Routine) (w y : Nat) : (columnOrder r w y).length = w := by
  unfold columnOrder
  split <;> simp

/-- The n-th column of row y: odd rows of ERRDIF run right to left (46_engine R321). -/
theorem columnOrder_getElem? (r : Routine) {w n : Nat} (y : Nat) (h : n < w) :
    (columnOrder r w y)[n]? = some (if usesAccumulator r = true ∧ y % 2 = 1 then w - 1 - n else n) := by
  have hdir : (usesAccumulator r && rowDir y == .left) = true ↔ usesAccumulator r = true ∧ y % 2 = 1 := by
    unfold rowDir
    split <;> simp <;> omega
  simp only [columnOrder, hdir]
  split
  · rw [List.getElem?_reverse (by simpa using h)]
    simp only [List.length_range]
    exact List.getElem?_range (by omega)
  · exact List.getElem?_range h

/-- Entry i of equally long lists put end to end. -/
theorem getElem?_flatMap_range {α : Type} {f : Nat → List α} {w : Nat} (hf : ∀ y, (f y).length = w) {h i : Nat}
    (hi : i < w * h) : ((List.range h).flatMap f)[i]? = (f (i / w))[i % w]? := by
  induction h with
  | zero => simp at hi
  | succ h ih =>
    have hlen : ((List.range h).flatMap f).length = w * h := by
      simp [List.length_flatMap, hf, Nat.mul_comm]
    rw [List.range_succ, List.flatMap_append, List.flatMap_singleton]
    by_cases hlt : i < w * h
    · rw [List.getElem?_append_left (by omega), ih hlt]
    · obtain ⟨c, rfl⟩ := Nat.exists_eq_add_of_le (Nat.le_of_not_lt hlt)
      have hc : c < w := by rw [Nat.mul_succ] at hi; omega
      rw [List.getElem?_append_right (by omega), hlen, Nat.add_sub_cancel_left, Nat.mul_add_div (by omega),
        Nat.div_eq_of_lt hc, Nat.mul_add_mod, Nat.mod_eq_of_lt hc, Nat.add_zero]

/-- A job has one pixel for each sample of its plane. -/
theorem pixelsOf_jobSteps_length (r : Routine) (w h : Nat) : (pixelsOf (jobSteps r w h)).length = w * h := by
  simp [pixelsOf_jobSteps, List.length_flatMap, columnOrder_length, Nat.mul_comm]

/-- The i-th pixel of a job. -/
theorem pixelsOf_jobSteps_getElem? (r : Routine) {w h i : Nat} (hi : i < w * h) :
    (pixelsOf (jobSteps r w h))[i]? =
      some (if usesAccumulator r = true ∧ i / w % 2 = 1 then w - 1 - i % w else i % w, i / w) := by
  have hw : 0 < w := Nat.pos_of_ne_zero fun h0 => by simp [h0] at hi
  rw [pixelsOf_jobSteps, getElem?_flatMap_range (w := w) (fun y => by rw [List.length_map, columnOrder_length]) hi,
    List.getElem?_map, columnOrder_getElem? r _ (Nat.mod_lt _ hw)]
  rfl

/-- Every column is in the order of its row. -/
theorem mem_columnOrder {r : Routine} {w x y : Nat} : x ∈ columnOrder r w y ↔ x < w := by
  unfold columnOrder
  split <;> simp

/-- The pixels of a job are the samples of its plane. -/
theorem mem_pixelsOf_jobSteps {r : Routine} {w h x y : Nat} : (x, y) ∈ pixelsOf (jobSteps r w h) ↔ x < w ∧ y < h := by
  rw [pixelsOf_jobSteps]
  simp only [List.mem_flatMap, List.mem_range, List.mem_map, Prod.mk.injEq, mem_columnOrder]
  constructor
  · rintro ⟨y', hy, x', hx, rfl, rfl⟩
    exact ⟨hx, hy⟩
  · rintro ⟨hx, hy⟩
    exact ⟨y, hy, x, hx, rfl, rfl⟩

/-- A job comes to each pixel once. -/
theorem pixelsOf_jobSteps_nodup (r : Routine) (w h : Nat) : (pixelsOf (jobSteps r w h)).Nodup := by
  rw [pixelsOf_jobSteps, List.nodup_flatMap]
  constructor
  · intro y _
    refine List.Nodup.map (fun a b hab => (Prod.mk.inj hab).1) ?_
    unfold columnOrder
    split
    · exact List.nodup_reverse.2 List.nodup_range
    · exact List.nodup_range
  · refine List.nodup_range.imp fun {y y'} hne => ?_
    simp only [Function.onFun, List.disjoint_left, List.mem_map, not_exists, not_and]
    rintro p ⟨x, -, rfl⟩ x' - he
    exact hne (Prod.mk.inj he).2.symm

/-! ### Two accesses a pixel (20_memory R87, R89) -/

/-- A pixel whose two accesses are answered uses them up. -/
theorem pixelStep_answered {r : Run} {k : Nat} {rest : List Nat} (h : r.busFail = (k + 2) :: rest) (s : State) (x y : Nat) :
    ∃ r', pixelStep s x y r = .ok r' ∧ r'.busFail = k :: rest ∧ r'.work.j = r.work.j := by
  cases hp : pixelStep s x y r with
  | ok r' =>
    have hj := (jobStep_constants (m := .pixel x y) hp).1
    obtain ⟨f, g, h1, h2, rfl⟩ := pixelStep_ok hp
    rw [h] at h1
    cases h1
    cases h2
    exact ⟨_, rfl, rfl, hj⟩
  | error b =>
    rcases pixelStep_error hp with ⟨f, h1, -⟩ | ⟨f, g, h1, h2, -⟩
    · rw [h] at h1
      cases h1
    · rw [h] at h1
      cases h1
      cases h2

/-- A pixel whose first access fails reports its source sample, one whose second access fails its destination sample. -/
theorem pixelStep_unanswered {r : Run} {k : Nat} {rest : List Nat} (h : r.busFail = k :: rest) (hk : k < 2) (s : State)
    (x y : Nat) :
    ∃ b, pixelStep s x y r = .error b ∧ b.run.busFail = rest ∧
      b.addr = if k % 2 = 0 then (sourcePlane s.act r.work.j).addr x y else (destPlane s.act r.work.j).addr x y := by
  have hcases : k = 0 ∨ k = 1 := by omega
  cases hp : pixelStep s x y r with
  | ok r' =>
    obtain ⟨f, g, h1, h2, -⟩ := pixelStep_ok hp
    rw [h] at h1
    rcases hcases with rfl | rfl
    · cases h1
    · cases h1
      cases h2
  | error b =>
    rcases pixelStep_error hp with ⟨f, h1, ha, hrun⟩ | ⟨f, g, h1, h2, ha, hrun⟩
    · rw [h] at h1
      rcases hcases with rfl | rfl
      · cases h1
        exact ⟨b, rfl, by rw [hrun]; rfl, ha⟩
      · cases h1
    · rw [h] at h1
      rcases hcases with rfl | rfl
      · cases h1
      · cases h1
        cases h2
        exact ⟨b, rfl, by rw [hrun], ha⟩

/-- Steps whose every access memory answers go on, two accesses fewer for each pixel. -/
theorem runSteps_answered {s : State} {steps : List JobStep} {r : Run} {k : Nat} {rest : List Nat}
    (h : r.busFail = k :: rest) (hk : 2 * (pixelsOf steps).length ≤ k) :
    ∃ r', runSteps s steps r = .ok r' ∧ r'.busFail = (k - 2 * (pixelsOf steps).length) :: rest := by
  induction steps generalizing r k with
  | nil => exact ⟨r, rfl, h⟩
  | cons m t ih =>
    cases m with
    | rowStart y => exact ih (r := rowStartStep s y r) h hk
    | rowEnd y => exact ih (r := rowEndStep s y r) h hk
    | pixel x y =>
      rw [pixelsOf_pixel, List.length_cons] at hk
      obtain ⟨k, rfl⟩ := Nat.exists_eq_add_of_le' (show 2 ≤ k by omega)
      obtain ⟨r1, h1, hf, -⟩ := pixelStep_answered h s x y
      obtain ⟨r', h2, hf'⟩ := ih hf (by omega)
      refine ⟨r', ?_, ?_⟩
      · rw [runSteps, jobStep, h1]
        exact h2
      · rw [hf', pixelsOf_pixel, List.length_cons]
        congr 1
        omega

/-- Else the access after the k answered ones fails: it is one of pixel k/2, the first or the second by the parity
of k. -/
theorem runSteps_unanswered {s : State} {steps : List JobStep} {r : Run} {j : JobLatch} {k : Nat} {rest : List Nat}
    (h : r.busFail = k :: rest) (hj : r.work.j = j) (hk : k < 2 * (pixelsOf steps).length) :
    ∃ b x y, runSteps s steps r = .error b ∧ (pixelsOf steps)[k / 2]? = some (x, y) ∧ b.run.busFail = rest ∧
      b.addr = if k % 2 = 0 then (sourcePlane s.act j).addr x y else (destPlane s.act j).addr x y := by
  induction steps generalizing r k with
  | nil => exact absurd hk (Nat.not_lt_zero k)
  | cons m t ih =>
    cases m with
    | rowStart y => exact ih (r := rowStartStep s y r) h hj hk
    | rowEnd y => exact ih (r := rowEndStep s y r) h hj hk
    | pixel x y =>
      rw [pixelsOf_pixel, List.length_cons] at hk
      by_cases hlt : k < 2
      · obtain ⟨b, hb, hf, ha⟩ := pixelStep_unanswered h hlt s x y
        refine ⟨b, x, y, ?_, ?_, hf, by rw [ha, hj]⟩
        · rw [runSteps, jobStep, hb]
        · rw [Nat.div_eq_of_lt hlt]
          rfl
      · obtain ⟨k, rfl⟩ := Nat.exists_eq_add_of_le' (show 2 ≤ k by omega)
        obtain ⟨r1, h1, hf, hj1⟩ := pixelStep_answered h s x y
        obtain ⟨b, x', y', hb, hget, hrest, ha⟩ := ih hf (hj1.trans hj) (by omega)
        refine ⟨b, x', y', ?_, ?_, hrest, ?_⟩
        · rw [runSteps, jobStep, h1]
          exact hb
        · rw [Nat.add_div_right _ (by omega)]
          exact hget
        · rw [ha, Nat.add_mod_right]

/-! ### What of a list of writes is in memory (20_memory R89, log 9) -/

/-- Memory `m` with those writes of a list (latest first) that `lands` picks by the number of writes before them. -/
def landing (lands : Nat → Bool) (size : Nat) (m : Memory) : List (Word × Nat) → Memory
  | [] => m
  | (a, v) :: t => if lands t.length then memWrite (landing lands size m t) a size v else landing lands size m t

/-- Memory with every write of the list. -/
abbrev landingAll : Nat → Memory → List (Word × Nat) → Memory := landing fun _ => true

/-- The memory a failed job leaves has the writes that the free value picks (log 9). -/
theorem landedMem_eq_landing (n size : Nat) (m : Memory) (ws : List (Word × Nat)) :
    landedMem n size m ws = landing (Config.sampleLands n) size m ws := by
  induction ws with
  | nil => rfl
  | cons p t ih => rw [landedMem, landing, ih]

/-- Writes keep memory canonical, whichever land. -/
theorem landing_wf {m : Memory} (hm : Memory.wf m = true) (lands : Nat → Bool) (size : Nat) (ws : List (Word × Nat)) :
    Memory.wf (landing lands size m ws) = true := by
  induction ws with
  | nil => exact hm
  | cons p t ih =>
    rw [landing]
    split
    · exact memWrite_wf _ _ _ ih
    · exact ih

/-- A byte that no write covers is as before, whichever land. -/
theorem memByte_landing_of_outside {lands : Nat → Bool} {size : Nat} {m : Memory} {ws : List (Word × Nat)} {b : Word}
    (h : ∀ p ∈ ws, inSpan p.1.toNat size b.toNat = false) : memByte (landing lands size m ws) b = memByte m b := by
  induction ws with
  | nil => rfl
  | cons p t ih =>
    have ht := ih fun q hq => h q (List.mem_cons_of_mem _ hq)
    rw [landing]
    split
    · rw [memByte_memWrite_of_outside _ (h p List.mem_cons_self), ht]
    · exact ht

/-- Spans of `size` bytes at the two addresses share no byte. -/
def SpansApart (size : Nat) (a b : Word) : Prop :=
  ∀ c : Word, ¬ (inSpan a.toNat size c.toNat = true ∧ inSpan b.toNat size c.toNat = true)

/-- Either way round. -/
theorem SpansApart.symm {size : Nat} {a b : Word} (h : SpansApart size a b) : SpansApart size b a :=
  fun c hc => h c hc.symm

/-- A byte of one span is outside a span apart from it. -/
theorem SpansApart.outside {size : Nat} {a b : Word} (h : SpansApart size a b) {i : Nat} (hi : i < size) :
    inSpan b.toNat size (a + BitVec.ofNat 32 i).toNat = false := by
  rw [Bool.eq_false_iff]
  exact fun hb => h _ ⟨(inSpan_toNat_iff _ _ _).2 ⟨i, hi, rfl⟩, hb⟩

/-- Among writes apart from one another, the bytes of one hold what it wrote if it landed, and else what they held. -/
theorem memByte_landing_of_mem {lands : Nat → Bool} {size : Nat} {m : Memory} {ws : List (Word × Nat)} {a : Word} {v : Nat}
    (hm : Memory.wf m = true) (hsize : size ≤ 2 ^ 32) (hap : ws.Pairwise fun p q => SpansApart size p.1 q.1)
    (hmem : (a, v) ∈ ws) :
    ∃ k, ∀ i < size, memByte (landing lands size m ws) (a + BitVec.ofNat 32 i) =
      if lands k then BitVec.ofNat 8 (v / 2 ^ (8 * i)) else memByte m (a + BitVec.ofNat 32 i) := by
  induction ws with
  | nil => cases hmem
  | cons p t ih =>
    obtain ⟨hhead, htail⟩ := List.pairwise_cons.1 hap
    rcases List.mem_cons.1 hmem with rfl | hmem
    · refine ⟨t.length, fun i hi => ?_⟩
      rw [landing]
      split
      · exact memByte_memWrite (landing_wf hm _ _ _) a hsize v hi
      · exact memByte_landing_of_outside fun q hq => (hhead q hq).outside hi
    · obtain ⟨k, hk⟩ := ih htail hmem
      refine ⟨k, fun i hi => ?_⟩
      rw [← hk i hi, landing]
      split
      · exact memByte_memWrite_of_outside _ ((hhead _ hmem).symm.outside hi)
      · rfl

/-- The n bytes from `a` on are in `m'` all as in `m`, or all as in `u`. -/
def OldOrNew (n : Nat) (m u m' : Memory) (a : Word) : Prop :=
  (∀ i < n, memByte m' (a + BitVec.ofNat 32 i) = memByte m (a + BitVec.ofNat 32 i)) ∨
    ∀ i < n, memByte m' (a + BitVec.ofNat 32 i) = memByte u (a + BitVec.ofNat 32 i)

/-- Where only the first of the writes were tried, and some of these landed, each one's bytes are old or as after all
the writes. -/
theorem landing_oldOrNew {lands : Nat → Bool} {size : Nat} {m : Memory} {ws us : List (Word × Nat)} {a : Word}
    (hm : Memory.wf m = true) (hsize : size ≤ 2 ^ 32) (hap : us.Pairwise fun p q => SpansApart size p.1 q.1)
    (hsuf : ws <:+ us) (ha : a ∈ us.map Prod.fst) :
    OldOrNew size m (landingAll size m us) (landing lands size m ws) a := by
  obtain ⟨⟨a, v⟩, hmem, rfl⟩ := List.mem_map.1 ha
  obtain ⟨-, hnew⟩ := memByte_landing_of_mem (lands := fun _ => true) hm hsize hap hmem
  by_cases hws : (a, v) ∈ ws
  · obtain ⟨k, hk⟩ := memByte_landing_of_mem (lands := lands) hm hsize (hap.sublist hsuf.sublist) hws
    cases hl : lands k with
    | true => exact Or.inr fun i hi => by rw [hk i hi, hnew i hi, hl]
    | false => exact Or.inl fun i hi => by rw [hk i hi, hl]; rfl
  · refine Or.inl fun i hi => memByte_landing_of_outside fun q hq => ?_
    have hne : (a, v) ≠ q := fun he => hws (he ▸ hq)
    have hsymm : Std.Symm fun p q : Word × Nat => SpansApart size p.1 q.1 := ⟨fun _ _ h => SpansApart.symm h⟩
    exact (hap.forall hmem (hsuf.subset hq) hne).outside hi


/-! ### The writes of a job (46_engine R321) -/

/-- Memory during a job is what it found, with every sample the job has computed. -/
def RunIsLanded (s : State) (j : JobLatch) (m : Memory) (r : Run) : Prop :=
  r.work.j = j ∧ r.mem = landingAll (containerSize s.act.dst) m r.writes

/-- A job's steps keep to that. -/
theorem jobStep_landed {s : State} {j : JobLatch} {m : Memory} {c : JobStep} {r r' : Run} (hr : RunIsLanded s j m r)
    (h : jobStep s c r = .ok r') : RunIsLanded s j m r' := by
  refine ⟨(jobStep_constants h).1.trans hr.1, ?_⟩
  cases c with
  | rowStart y => cases h; exact hr.2
  | rowEnd y => cases h; exact hr.2
  | pixel x y =>
    obtain ⟨f, g, -, -, rfl⟩ := pixelStep_ok h
    dsimp only
    rw [hr.2]
    rfl

/-- A job's steps write the destination samples of their pixels, in order. -/
theorem runSteps_writes {s : State} {j : JobLatch} {steps : List JobStep} {r r' : Run} (hj : r.work.j = j)
    (h : runSteps s steps r = .ok r') :
    r'.writes.map Prod.fst =
      ((pixelsOf steps).map fun p => (destPlane s.act j).addr p.1 p.2).reverse ++ r.writes.map Prod.fst := by
  induction steps generalizing r with
  | nil => cases h; rfl
  | cons m t ih =>
    rw [runSteps] at h
    split at h
    · next a ha =>
      have hstep := ih ((jobStep_constants ha).1.trans hj) h
      cases m with
      | rowStart y => cases ha; exact hstep
      | rowEnd y => cases ha; exact hstep
      | pixel x y =>
        obtain ⟨f, g, -, -, rfl⟩ := pixelStep_ok ha
        rw [hstep, pixelsOf_pixel, List.map_cons, List.map_cons, List.reverse_cons, hj, List.append_assoc]
        rfl
    · cases h

/-! ### The job that no access fails, beside one that an access fails (log 8) -/

/-- A pixel's value does not depend on the failures to come. -/
theorem pixelValue_withBusFail (s : State) (x y raw : Nat) (r : Run) (f : List Nat) :
    pixelValue s x y raw { r with busFail := f } =
      ((pixelValue s x y raw r).1, { (pixelValue s x y raw r).2 with busFail := f }) := by
  unfold pixelValue
  cases s.act.routine <;> rfl

/-- Nor does the value of a pixel in its run. -/
theorem pixelResult_withBusFail (s : State) (x y : Nat) (f f' g : List Nat) (r : Run) :
    pixelResult s x y f' { r with busFail := g } =
      ((pixelResult s x y f r).1, { (pixelResult s x y f r).2 with busFail := f' }) :=
  pixelValue_withBusFail s x y _ (pixelRun x y f r) f'

/-- With no access to fail a pixel writes its sample. -/
theorem pixelStep_noFail (s : State) (x y : Nat) (f : List Nat) (r : Run) :
    pixelStep s x y { r with busFail := [] } = .ok { (pixelResult s x y f r).2 with
      busFail := []
      mem := memWrite r.mem ((destPlane s.act r.work.j).addr x y) (destPlane s.act r.work.j).size (pixelResult s x y f r).1
      writes := ((destPlane s.act r.work.j).addr x y, (pixelResult s x y f r).1) :: r.writes } := by
  cases hp : pixelStep s x y { r with busFail := [] } with
  | ok r' =>
    obtain ⟨f', g, h1, h2, rfl⟩ := pixelStep_ok hp
    cases h1
    cases h2
    rw [pixelResult_withBusFail s x y f]
  | error b =>
    rcases pixelStep_error hp with ⟨f', h1, -⟩ | ⟨f', g, h1, h2, -⟩
    · cases h1
    · cases h1
      cases h2

/-- A step that goes on does the same when no access is to fail. -/
theorem jobStep_noFail_of_ok {s : State} {m : JobStep} {r r' : Run} (h : jobStep s m r = .ok r') :
    jobStep s m { r with busFail := [] } = .ok { r' with busFail := [] } := by
  cases m with
  | rowStart y => cases h; rfl
  | rowEnd y => cases h; rfl
  | pixel x y =>
    obtain ⟨f, g, -, -, rfl⟩ := pixelStep_ok h
    exact pixelStep_noFail s x y f r

/-- A step that an access fails goes on when none is to fail, and has computed no sample that it does not write then. -/
theorem jobStep_noFail_of_error {s : State} {m : JobStep} {r : Run} {b : BusFailure} (h : jobStep s m r = .error b) :
    ∃ u, jobStep s m { r with busFail := [] } = .ok u ∧ u.busFail = [] ∧ b.run.writes <:+ u.writes ∧
      r.writes <:+ u.writes := by
  cases m with
  | rowStart y => cases h
  | rowEnd y => cases h
  | pixel x y =>
    rcases pixelStep_error h with ⟨f, -, -, hrun⟩ | ⟨f, g, -, -, -, hrun⟩
    · refine ⟨_, pixelStep_noFail s x y f r, rfl, ?_, List.suffix_cons _ _⟩
      rw [hrun]
      exact List.suffix_cons _ _
    · refine ⟨_, pixelStep_noFail s x y f r, rfl, ?_, List.suffix_cons _ _⟩
      rw [hrun]

/-- Steps only add to the writes. -/
theorem runSteps_writes_suffix {s : State} {steps : List JobStep} {r r' : Run} (h : runSteps s steps r = .ok r') :
    r.writes <:+ r'.writes := by
  refine runSteps_induct (P := fun q => r.writes <:+ q.writes) ?_ List.suffix_rfl h
  rintro m - a b hab hstep
  refine hab.trans ?_
  cases m with
  | rowStart y => cases hstep; exact List.suffix_rfl
  | rowEnd y => cases hstep; exact List.suffix_rfl
  | pixel x y =>
    obtain ⟨f, g, -, -, rfl⟩ := pixelStep_ok hstep
    exact List.suffix_cons _ _

/-- Steps that go on do the same when no access is to fail. -/
theorem runSteps_noFail_of_ok {s : State} {steps : List JobStep} {r r' : Run} (h : runSteps s steps r = .ok r') :
    runSteps s steps { r with busFail := [] } = .ok { r' with busFail := [] } := by
  induction steps generalizing r with
  | nil => cases h; rfl
  | cons m t ih =>
    rw [runSteps] at h
    split at h
    · next a ha =>
      rw [runSteps, jobStep_noFail_of_ok ha]
      exact ih h
    · cases h

/-- Steps that an access fails stop in a run with the memory the writes before it made; when no access is to fail they go
on to write all the samples computed. -/
theorem runSteps_noFail_of_error {s : State} {j : JobLatch} {m : Memory} {steps : List JobStep} {r : Run} {b : BusFailure}
    (hr : RunIsLanded s j m r) (h : runSteps s steps r = .error b) :
    ∃ u ws, runSteps s steps { r with busFail := [] } = .ok u ∧ b.run.writes <:+ u.writes ∧ ws <:+ u.writes ∧
      b.run.mem = landingAll (containerSize s.act.dst) m ws := by
  induction steps generalizing r with
  | nil => cases h
  | cons c t ih =>
    rw [runSteps] at h
    split at h
    · next a ha =>
      rw [runSteps, jobStep_noFail_of_ok ha]
      exact ih (jobStep_landed hr ha) h
    · next b' hb =>
      cases h
      obtain ⟨a, ha, hf, hbw, hrw⟩ := jobStep_noFail_of_error hb
      obtain ⟨u, hu, -⟩ := runSteps_busFail_nil (s := s) (steps := t) hf
      have hsuf := runSteps_writes_suffix hu
      refine ⟨u, r.writes, ?_, hbw.trans hsuf, hrw.trans hsuf, by rw [jobStep_error_mem hb, hr.2]⟩
      rw [runSteps, ha]
      exact hu

/-- A job's steps do not read the state's own list of failures: the run carries it. -/
theorem runSteps_withBusFail (s : State) (f : List Nat) (steps : List JobStep) (r : Run) :
    runSteps { s with busFail := f } steps r = runSteps s steps r := by
  induction steps generalizing r with
  | nil => rfl
  | cons m t ih =>
    have hm : jobStep { s with busFail := f } m r = jobStep s m r := by cases m <;> rfl
    rw [runSteps, runSteps, hm]
    cases jobStep s m r with
    | ok r' => exact ih r'
    | error b => rfl

/-- The job with no access to fail, as a run. -/
theorem runJob_noFail (s : State) (j : JobLatch) :
    runJob { s with busFail := [] } j =
      runSteps s (jobSteps s.act.routine j.width j.height) { jobSetup s j with busFail := [] } :=
  runSteps_withBusFail s [] _ _

/-- A job starts with the memory it finds and nothing written. -/
theorem jobSetup_landed (s : State) (j : JobLatch) : RunIsLanded s j s.mem (jobSetup s j) := ⟨rfl, rfl⟩

/-- A job that ends does the same, but for what is left of the failures, when no access is to fail. -/
theorem runJob_noFail_of_ok {s : State} {j : JobLatch} {r : Run} (h : runJob s j = .ok r) :
    runJob { s with busFail := [] } j = .ok { r with busFail := [] } := by
  rw [runJob_noFail]
  exact runSteps_noFail_of_ok h

/-- A job that an access fails has computed samples that the job with no access to fail writes, and has made the memory of
the first of them. -/
theorem runJob_noFail_of_error {s : State} {j : JobLatch} {b : BusFailure} (h : runJob s j = .error b) :
    ∃ u ws, runJob { s with busFail := [] } j = .ok u ∧ b.run.writes <:+ u.writes ∧ ws <:+ u.writes ∧
      b.run.mem = landingAll (containerSize s.act.dst) s.mem ws := by
  rw [runJob_noFail]
  exact runSteps_noFail_of_error (jobSetup_landed s j) h

/-! ### The destination samples of a job -/

/-- Memory after a job that ends has every sample the job wrote. -/
theorem runJob_mem {s : State} {j : JobLatch} {r : Run} (h : runJob s j = .ok r) :
    r.mem = landingAll (containerSize s.act.dst) s.mem r.writes :=
  (runSteps_induct (P := RunIsLanded s j s.mem) (fun _ _ _ _ hq hs => jobStep_landed hq hs) (jobSetup_landed s j) h).2

/-- A job that ends has written its destination samples in the order of its pixels. -/
theorem runJob_writes {s : State} {j : JobLatch} {r : Run} (h : runJob s j = .ok r) :
    r.writes.map Prod.fst = ((pixelsOf (jobSteps s.act.routine j.width j.height)).map fun p =>
      (destPlane s.act j).addr p.1 p.2).reverse := by
  rw [runSteps_writes (r := jobSetup s j) rfl h]
  exact List.append_nil _

/-- The addresses a job writes are those of its destination samples. -/
theorem mem_runJob_writes {s : State} {j : JobLatch} {r : Run} (h : runJob s j = .ok r) (a : Word) :
    a ∈ r.writes.map Prod.fst ↔ ∃ x < j.width, ∃ y < j.height, (destPlane s.act j).addr x y = a := by
  rw [runJob_writes h, List.mem_reverse, List.mem_map]
  constructor
  · rintro ⟨⟨x, y⟩, hp, rfl⟩
    obtain ⟨hx, hy⟩ := mem_pixelsOf_jobSteps.1 hp
    exact ⟨x, hx, y, hy, rfl⟩
  · rintro ⟨x, hx, y, hy, rfl⟩
    exact ⟨(x, y), mem_pixelsOf_jobSteps.2 ⟨hx, hy⟩, rfl⟩

/-- Where destination samples share no byte, neither do the writes of a job. -/
theorem runJob_writes_apart {s : State} {j : JobLatch} {r : Run} (h : runJob s j = .ok r)
    (hap : SamplesApart (destPlane s.act j)) :
    r.writes.Pairwise fun p q => SpansApart (containerSize s.act.dst) p.1 q.1 := by
  have hpix : (pixelsOf (jobSteps s.act.routine j.width j.height)).Pairwise fun p q =>
      SpansApart (containerSize s.act.dst) ((destPlane s.act j).addr q.1 q.2) ((destPlane s.act j).addr p.1 p.2) := by
    refine (pixelsOf_jobSteps_nodup _ _ _).imp_of_mem fun {p q} hp hq hne => ?_
    obtain ⟨hpx, hpy⟩ := mem_pixelsOf_jobSteps.1 hp
    obtain ⟨hqx, hqy⟩ := mem_pixelsOf_jobSteps.1 hq
    exact hap q.1 q.2 p.1 p.2 hqx hqy hpx hpy (Ne.symm hne)
  have hfst := List.pairwise_reverse.2 (List.pairwise_map.2 hpix)
  rw [← runJob_writes h] at hfst
  exact List.pairwise_map.1 hfst

/-- Writes of a job's first destination samples, whichever land, change no byte outside the destination. -/
theorem landing_outside_dest {s : State} {j : JobLatch} {u : Run} {ws : List (Word × Nat)} (hw : j.width < 65536)
    (hu : runJob { s with busFail := [] } j = .ok u) (hsuf : ws <:+ u.writes) (lands : Nat → Bool) {a : Word}
    (ha : (destPlane s.act j).holds a = false) :
    memByte (landing lands (containerSize s.act.dst) s.mem ws) a = memByte s.mem a := by
  refine memByte_landing_of_outside fun p hp => ?_
  obtain ⟨x, hx, y, hy, he⟩ := (mem_runJob_writes hu p.1).1 (List.mem_map_of_mem (hsuf.subset hp))
  rw [← he, Bool.eq_false_iff]
  intro hc
  have hsize := containerSize_le s.act.dst
  have hrow : (destPlane s.act j).width * (destPlane s.act j).size < 2 ^ 32 := by
    simp only [destPlane]
    nlinarith
  have := holds_of_sample hx hy hrow hc
  rw [ha] at this
  cases this

/-- Where destination samples share no byte, each is old or as the job with no access to fail leaves it. -/
theorem landing_sample_oldOrNew {s : State} {j : JobLatch} {u : Run} {ws : List (Word × Nat)} (hm : Memory.wf s.mem = true)
    (hap : SamplesApart (destPlane s.act j)) (hu : runJob { s with busFail := [] } j = .ok u) (hsuf : ws <:+ u.writes)
    (lands : Nat → Bool) {x y : Nat} (hx : x < j.width) (hy : y < j.height) :
    OldOrNew (containerSize s.act.dst) s.mem u.mem (landing lands (containerSize s.act.dst) s.mem ws)
      ((destPlane s.act j).addr x y) := by
  have hsize := containerSize_le s.act.dst
  rw [runJob_mem hu]
  exact landing_oldOrNew hm (by omega) (runJob_writes_apart (s := { s with busFail := [] }) hu hap) hsuf
    ((mem_runJob_writes hu _).2 ⟨x, hx, y, hy, rfl⟩)

/-- The pixel of access k of a job, two accesses a pixel: row and column in the job's order (46_engine R321). -/
theorem pixelsOf_jobSteps_access (r : Routine) {w h k : Nat} (hk : k < 2 * w * h) :
    (pixelsOf (jobSteps r w h))[k / 2]? =
      some (if usesAccumulator r = true ∧ k / 2 / w % 2 = 1 then w - 1 - k / 2 % w else k / 2 % w, k / 2 / w) :=
  pixelsOf_jobSteps_getElem? r (by rw [Nat.mul_assoc] at hk; omega)

/-- A job all of whose accesses memory answers ends, with that many failures fewer to come. -/
theorem runJob_answered {s : State} {j : JobLatch} {k : Nat} {rest : List Nat} (h : s.busFail = k :: rest)
    (hk : 2 * j.width * j.height ≤ k) :
    ∃ r, runJob s j = .ok r ∧ r.busFail = (k - 2 * j.width * j.height) :: rest := by
  have := runSteps_answered (s := s) (steps := jobSteps s.act.routine j.width j.height) (r := jobSetup s j) h
  rw [pixelsOf_jobSteps_length, ← Nat.mul_assoc] at this
  exact this hk

/-- Else the first access that fails stops it (20_memory R89). -/
theorem runJob_unanswered {s : State} {j : JobLatch} {k : Nat} {rest : List Nat} (h : s.busFail = k :: rest)
    (hk : k < 2 * j.width * j.height) :
    ∃ b x y, runJob s j = .error b ∧ y = k / 2 / j.width ∧
      x = (if usesAccumulator s.act.routine = true ∧ y % 2 = 1 then j.width - 1 - k / 2 % j.width else k / 2 % j.width) ∧
      b.run.busFail = rest ∧
      b.addr = if k % 2 = 0 then (sourcePlane s.act j).addr x y else (destPlane s.act j).addr x y := by
  obtain ⟨b, x, y, hb, hget, hrest, ha⟩ := runSteps_unanswered (s := s)
    (steps := jobSteps s.act.routine j.width j.height) (r := jobSetup s j) h rfl
    (by rw [pixelsOf_jobSteps_length, ← Nat.mul_assoc]; exact hk)
  rw [pixelsOf_jobSteps_access _ hk] at hget
  cases hget
  exact ⟨b, _, _, hb, rfl, rfl, hrest, ha⟩

/-- Whether a job is accepted does not depend on the failures to come. -/
theorem accepted_withBusFail {s : State} {j : JobLatch} (h : JobAccepted s j) (f : List Nat) :
    JobAccepted { s with busFail := f } j := h

/-- The memory an abandoned job leaves: some of the samples it computed (20_memory R89; log 9). -/
theorem abandonJob_mem_landing (r : Run) (s : State) :
    (abandonJob r s).mem = landing (Config.sampleLands s.free) (containerSize s.act.dst) s.mem r.writes := by
  rw [abandonJob_mem, landedMem_eq_landing]

/-- The job in the registers of an accepted job is narrower than 2^16 samples. -/
theorem width_of_accepted {s : State} {j : JobLatch} (h : JobAccepted s j) : j.width < 65536 := by
  rw [h.1.1]
  exact (jobOf_bounds _).1

end Sys2Proof.Machine

open Sys2Proof Sys2Proof.Machine Sys2Proof.Claims

/-- Settles O57: the accesses are counted along the steps, and what the failed job leaves is compared with the same job
when no access fails. -/
theorem firstFailingAccessEndsTheJob : Obligations.FirstFailingAccessEndsTheJob := by
  intro s j k rest hj hf
  refine ⟨fun hk => ?answered, fun hk => ?stopped, fun hk hm hap => ?samples⟩
  case answered =>
    obtain ⟨r, hr, hrest⟩ := runJob_answered hf hk
    rcases exec_of_accepted hj with ⟨r', hr', he⟩ | ⟨b, hb, -⟩
    · cases hr.symm.trans hr'
      refine ⟨_, he, ?_, ?_, ?_⟩
      · rw [succeed_busFail, finishJob_frame]
        exact hrest
      · rw [succeed_irqStatus, finishJob_irqStatus]
        rfl
      · rw [succeed_errCode, finishJob_frame]
    · cases hr.symm.trans hb
  all_goals
    obtain ⟨b, x, y, hb, hy, hx, hrest, haddr⟩ := runJob_unanswered hf hk
    obtain ⟨u, -, hu, hsuf, -⟩ := runJob_noFail_of_error hb
    obtain ⟨r, hr, -⟩ | ⟨b', hb', he⟩ := exec_of_accepted hj
    · cases hr.symm.trans hb
    cases hb'.symm.trans hb
  case stopped =>
    refine ⟨_, y, x, he, hy, hx, haddr, rfl, rfl, rfl, hrest, rfl, ⟨rfl, rfl, rfl, rfl⟩, ⟨rfl, rfl, rfl, rfl, rfl⟩,
      ⟨rfl, rfl, rfl, rfl, rfl⟩, ⟨rfl, rfl, rfl, rfl, rfl, rfl⟩, fun a ha => ?_⟩
    rw [failWith_mem, abandonJob_mem_landing]
    exact landing_outside_dest (width_of_accepted hj) hu hsuf _ ha
  case samples =>
    obtain ⟨u', hu', -, he'⟩ := exec_of_accepted_noFail (accepted_withBusFail hj []) rfl
    cases hu.symm.trans hu'
    refine ⟨_, _, he, he', fun x hx y hy => ?_⟩
    simp only [destSample, failWith_mem, abandonJob_mem_landing, succeed_mem, finishJob_mem]
    exact (landing_sample_oldOrNew hm hap hu hsuf _ hx hy).imp memRead_congr memRead_congr

end

section
/-! SUPPORT. HOST's accesses to plane memory, by what the latched command will do: no running job, a job that runs, and a job
that the model refuses. -/

namespace Sys2Proof.Machine

open Sys2Proof.Claims

/-! ### What the latched command will do (20_memory R94; log 17) -/

/-- A latched PROCESS_PLANE will do what its plan says. -/
theorem runningPlan_of_latch {s : State} {l : Latch} (hl : s.latch = some l)
    (hd : decode l.word = .command .processPlane) : runningPlan s = some (planJob s) := by
  simp [runningPlan, hl, hd]

/-- Such a plan is that of a latched PROCESS_PLANE. -/
theorem runningPlan_eq_some {s : State} {p : JobPlan} (h : runningPlan s = some p) :
    ∃ l, s.latch = some l ∧ decode l.word = .command .processPlane ∧ planJob s = p := by
  unfold runningPlan at h
  split at h
  · cases h
  · next l hl =>
    split at h
    · next hd => exact ⟨l, hl, hd, Option.some.inj h⟩
    · cases h

/-- A job that the model refuses has passed its checks (log 30). -/
theorem passes_of_planJob_refuse {s : State} {q : Refusal} (h : planJob s = .refuse q) :
    JobPassesChecks s (jobOf s.operands) := by
  unfold planJob at h
  dsimp only at h
  split_ifs at h with hvalid hplane hwidth haligned hempty hmeets hdevice
  all_goals
    refine ⟨rfl, by simpa using hvalid, by omega, fun hk => ?_,
      (aligned_iff s _).1 (Bool.eq_true_of_not_eq_false haligned), by omega, by omega⟩
    have := (usesAccumulator_iff _).2 hk
    simp only [this, Config.maxW, true_and] at hwidth
    omega

/-- No job is latched that runs or that the model refuses: the latch is empty, holds another command, or a job that its
checks turn away. -/
def NoRunningJob (s : State) : Prop :=
  (∀ j, runningPlan s ≠ some (.run j)) ∧ ∀ q, runningPlan s ≠ some (.refuse q)

/-- A latched job that its checks turn away is none of them. -/
theorem noRunningJob_of_not_passes {s : State}
    (h : ∀ l, s.latch = some l → decode l.word = .command .processPlane → ¬ JobPassesChecks s (jobOf s.operands)) :
    NoRunningJob s := by
  constructor
  · intro j hrun
    obtain ⟨l, hl, hd, hp⟩ := runningPlan_eq_some hrun
    exact h l hl hd (passes_of_planJob_run hp)
  · intro q hrefuse
    obtain ⟨l, hl, hd, hp⟩ := runningPlan_eq_some hrefuse
    exact h l hl hd (passes_of_planJob_refuse hp)

/-! ### HOST's writes -/

/-- A write sets its byte and no other (20_memory R80). -/
theorem memByte_memSetByte {m : Memory} (hm : Memory.wf m = true) (a : Word) (b : Byte) (c : Word) :
    memByte (memSetByte m a b) c = if c = a then b else memByte m c := by
  split
  · next h => rw [h, memByte_memSetByte_self a b hm]
  · next h => exact memByte_memSetByte_ne m b h

/-- With no running job a write is done. -/
theorem hostMemWrite_done {s : State} (h : ∀ j, runningPlan s ≠ some (.run j)) (a : Word) (b : Byte) :
    hostMemWrite a b s = .next { s with mem := memSetByte s.mem a b } := by
  rcases hostMemWrite_cases a b s with hw | ⟨j, hj, -, -⟩
  · exact hw
  · exact absurd hj (h j)

/-- While a job runs a write is refused on its planes, and else done (20_memory R94). -/
theorem hostMemWrite_running {s : State} {j : JobLatch} (h : runningPlan s = some (.run j)) (a : Word) (b : Byte) :
    hostMemWrite a b s =
      if ((sourcePlane s.act j).holds a || (destPlane s.act j).holds a) = true then .refused .hostWritesRunningPlane
      else .next { s with mem := memSetByte s.mem a b } := by
  rw [hostMemWrite, h]

/-! ### HOST's reads -/

/-- With no running job a read gives the byte in memory. -/
theorem hostMemRead_idle {s : State} (h : NoRunningJob s) (a : Word) (fresh : Bool) :
    hostMemRead a fresh s = { s with hostData := (memByte s.mem a).setWidth 32 } := by
  have hu : readsUnspecified a fresh s = false := by
    unfold readsUnspecified
    split
    · next q hq => exact absurd hq (h.2 q)
    · rfl
  have hb : hostByte a fresh s = memByte s.mem a := by
    unfold hostByte
    split
    · next j hj => exact absurd hj (h.1 j)
    · rw [hu]
      rfl
  rw [hostMemRead_of_not_refused h.2, hb]

/-- While a job runs a fresh read gives the job's byte on its destination, and else the byte in memory (20_memory R94). -/
theorem hostMemRead_running {s : State} {j : JobLatch} (h : runningPlan s = some (.run j)) (a : Word) :
    hostMemRead a true s = { s with
      hostData := BitVec.setWidth 32
        (if (destPlane s.act j).holds a = true then memByte (jobMemory s j) a else memByte s.mem a) } := by
  rw [hostMemRead_of_not_refused (by simp [h]), hostByte, h]
  rfl

/-- While a job is latched that the model refuses, a read outside its destination gives the byte in memory (log 18). -/
theorem hostMemRead_refused_outside {s : State} {q : Refusal} (h : runningPlan s = some (.refuse q)) {a : Word}
    (ha : (destPlane s.act (jobOf s.operands)).holds a = false) (fresh : Bool) :
    hostMemRead a fresh s = { s with hostData := (memByte s.mem a).setWidth 32 } := by
  have hu : readsUnspecified a fresh s = false := by
    rw [readsUnspecified, h]
    simp [ha]
  have hb : hostByte a fresh s = memByte s.mem a := by
    rw [hostByte, h]
    simp [hu]
  rw [hostMemRead, hu, hb]
  rfl

/-! ### The bytes of a running job (log 8) -/

/-- The job's byte, where no access fails, is the one in the memory it leaves; outside its destination the job leaves the
byte it finds. -/
theorem freshByte_noFail {s t : State} {j : JobLatch} (hj : JobAccepted s j) (hf : s.busFail = [])
    (ht : exec .processPlane s = .next t) (a : Word) :
    (if (destPlane s.act j).holds a = true then memByte (jobMemory s j) a else memByte s.mem a) = memByte t.mem a := by
  obtain ⟨r, hr, -, he⟩ := exec_of_accepted_noFail hj hf
  cases he.symm.trans ht
  rw [succeed_mem, finishJob_mem]
  split
  · rw [jobMemory, hr]
  · next ha =>
    exact (runSteps_outside (r := jobSetup s j) rfl (fun x y => pixel_of_mem_jobSteps) (width_of_accepted hj)
      (Bool.eq_false_of_not_eq_true ha) hr).symm

/-- Where accesses may fail and destination samples share no byte, each byte of the destination is, in what the job has
made, old or as the job leaves it when no access fails. -/
theorem jobMemory_old_or_new {s u : State} {j : JobLatch} (hj : JobAccepted s j) (hm : Memory.wf s.mem = true)
    (hap : SamplesApart (destPlane s.act j)) (hu : exec .processPlane { s with busFail := [] } = .next u) {a : Word}
    (ha : (destPlane s.act j).holds a = true) :
    memByte (jobMemory s j) a = memByte s.mem a ∨ memByte (jobMemory s j) a = memByte u.mem a := by
  obtain ⟨r, hr, -, he⟩ := exec_of_accepted_noFail (accepted_withBusFail hj []) rfl
  cases he.symm.trans hu
  rw [succeed_mem, finishJob_mem, jobMemory]
  rcases exec_of_accepted hj with ⟨r', hr', -⟩ | ⟨b, hb, -⟩
  · rw [hr']
    cases (runJob_noFail_of_ok hr').symm.trans hr
    exact Or.inr rfl
  · obtain ⟨r', ws, hr', -, hsuf, hmem⟩ := runJob_noFail_of_error hb
    cases hr'.symm.trans hr
    rw [hb]
    dsimp only
    rw [hmem]
    obtain ⟨x, hx, y, hy, i, hi, rfl⟩ := (holds_iff_sample _ a).1 ha
    exact (landing_sample_oldOrNew hm hap hr hsuf _ hx hy).imp (fun h => h i hi) fun h => h i hi

end Sys2Proof.Machine

open Sys2Proof Sys2Proof.Machine Sys2Proof.Claims

/-- Settles O58: by what the latched command will do. -/
theorem hostAccessesMeetTheRunningJob : Obligations.HostAccessesMeetTheRunningJob := by
  refine ⟨fun m a b hm c => memByte_memSetByte hm a b c, ?_⟩
  rintro s j a b rfl
  refine ⟨fun hidle => ?idle, fun l hl hd hj => ?running, fun l q hl hd hq => ?refused⟩
  case idle =>
    have hno := noRunningJob_of_not_passes hidle
    exact ⟨hostMemWrite_done hno.1 a b, fun fresh => congrArg Host.Outcome.next (hostMemRead_idle hno a fresh)⟩
  case running =>
    have hplan : runningPlan s = some (.run (jobOf s.operands)) := by
      rw [runningPlan_of_latch hl hd, planJob_of_accepted hj]
    have hwrite : hostOperation (.memWrite a b) s = _ := hostMemWrite_running hplan a b
    have hread : hostOperation (.memRead a true) s = _ := congrArg Host.Outcome.next (hostMemRead_running hplan a)
    refine ⟨fun ha => ?_, fun hsrc hdst => ?_, congrArg Host.Outcome.next (hostMemRead_old a s), fun t hf ht => ?_,
      fun u hm hap hu => ⟨_, hread, ?_⟩⟩
    · rw [hwrite, if_pos (by simpa using ha)]
    · rw [hwrite, if_neg (by simp [hsrc, hdst])]
    · rw [hread, freshByte_noFail hj hf ht]
    · split
      · next ha => exact jobMemory_old_or_new hj hm hap hu ha
      · exact Or.inl rfl
  case refused =>
    have hplan : runningPlan s = some (.refuse q) := by
      rw [runningPlan_of_latch hl hd, (execProcessPlane_refused_iff s q).1 hq]
    refine ⟨hostMemWrite_done (by simp [hplan]) a b, fun fresh hfresh => congrArg Host.Outcome.next ?_⟩
    rcases hfresh with rfl | ha
    · exact hostMemRead_old a s
    · exact hostMemRead_refused_outside hplan ha fresh

end

section
/-! SUPPORT. The encoding: a word cut into its fields, the command of a row with the arguments of a word, and the encoder
as its inverse. -/

namespace Sys2Proof.Machine

open Sys2Proof.Claims

/-! ### Fields of a masked word (00_scope R11) -/

/-- A field of a masked word is the field of the word, masked by that of the mask. -/
theorem field_and (w m : Word) (lo len : Nat) : field (w &&& m) lo len = field w lo len &&& field m lo len := by
  rw [field, BitVec.toNat_and, Nat.and_div_two_pow, Nat.and_mod_two_pow, field, field]

/-- A mask that is all ones on a field keeps it. -/
theorem field_and_of_ones {m : Word} {lo len : Nat} (h : field m lo len = 2 ^ len - 1) (w : Word) :
    field (w &&& m) lo len = field w lo len := by
  rw [field_and, h, Nat.and_two_pow_sub_one_eq_mod, field, Nat.mod_mod]

/-- A mask that is all zeros on a field clears it. -/
theorem field_and_of_zeros {m : Word} {lo len : Nat} (h : field m lo len = 0) (w : Word) :
    field (w &&& m) lo len = 0 := by
  rw [field_and, h, Nat.and_zero]

/-- A field of `len` bits is below `2 ^ len`. -/
theorem field_lt (w : Word) (lo len : Nat) : field w lo len < 2 ^ len := Nat.mod_lt _ (Nat.two_pow_pos len)

/-- The opcode field as a number (30_encoding R111). -/
theorem opcodeOf_eq_mod (w : Word) : opcodeOf w = w.toNat % 256 := by
  simp [opcodeOf, field]

/-! ### The command of a row with a word's arguments (30_encoding R113, R114) -/

/-- The command of `i`'s row of the opcode map, its arguments read from the fields of `w`. -/
def withArgumentsOf (w : Word) : Instr → Instr
  | .qrsSeed _ => .qrsSeed (field w 8 16)
  | .patRead _ _ _ => .patRead (field w 8 5) (field w 16 5) (field w 24 2)
  | .edSplit _ => .edSplit (field w 8 8)
  | i => i

/-- A word with the opcode of `i` decodes to the command of `i`'s row. -/
theorem decode_of_opcode {w : Word} {i : Instr} (h : opcodeOf w = opcode i) :
    decode w = .command (withArgumentsOf w i) := by
  cases i
  all_goals
    simp only [opcode] at h
    simp only [decode, h, withArgumentsOf]

@[simp] theorem opcode_withArgumentsOf (w : Word) (i : Instr) : opcode (withArgumentsOf w i) = opcode i := by
  cases i <;> rfl

@[simp] theorem usedBits_withArgumentsOf (w : Word) (i : Instr) : usedBits (withArgumentsOf w i) = usedBits i := by
  cases i <;> rfl

/-- Arguments read from a word are in their ranges. -/
theorem wellFormed_withArgumentsOf (w : Word) (i : Instr) : (withArgumentsOf w i).wellFormed = true := by
  cases i with
  | qrsSeed => exact decide_eq_true (field_lt w 8 16)
  | patRead => simpa [withArgumentsOf, Instr.wellFormed, and_assoc] using
      ⟨field_lt w 8 5, field_lt w 16 5, field_lt w 24 2⟩
  | edSplit => exact decide_eq_true (field_lt w 8 8)
  | _ => rfl

/-! ### The encoder and the decoder (30_encoding R112, R116) -/

/-- The family `EncodedWord` for every command. -/
theorem encodedWord (i : Instr) : Laws.EncodedWord.Statement i := by
  cases i with
  | nop => exact Laws.EncodedWord.nop
  | construct => exact Laws.EncodedWord.construct
  | processPlane => exact Laws.EncodedWord.processPlane
  | softReset => exact Laws.EncodedWord.softReset
  | rngStep => exact Laws.EncodedWord.rngStep
  | rngEol => exact Laws.EncodedWord.rngEol
  | rngSeed => exact Laws.EncodedWord.rngSeed
  | qrsSeed y => exact Laws.EncodedWord.qrsSeed y
  | qrsNext => exact Laws.EncodedWord.qrsNext
  | patRead px py rot => exact Laws.EncodedWord.patRead px py rot
  | gainQuery => exact Laws.EncodedWord.gainQuery
  | edSplit idx => exact Laws.EncodedWord.edSplit idx

/-- The fields of an encoded well-formed command are its arguments. -/
theorem withArgumentsOf_encode {i : Instr} (h : i.wellFormed = true) : withArgumentsOf (encode i) i = i := by
  cases i with
  | qrsSeed y =>
    simp only [Instr.wellFormed, decide_eq_true_eq] at h
    simp only [withArgumentsOf, encode, argumentBits, opcode, field, BitVec.toNat_ofNat, Instr.qrsSeed.injEq]
    omega
  | patRead px py rot =>
    simp only [Instr.wellFormed, Bool.and_eq_true, decide_eq_true_eq] at h
    simp only [withArgumentsOf, encode, argumentBits, opcode, field, BitVec.toNat_ofNat, Instr.patRead.injEq]
    omega
  | edSplit idx =>
    simp only [Instr.wellFormed, decide_eq_true_eq] at h
    simp only [withArgumentsOf, encode, argumentBits, opcode, field, BitVec.toNat_ofNat, Instr.edSplit.injEq]
    omega
  | _ => rfl

/-- The decoder undoes the encoder on well-formed commands (30_encoding R113, R116). -/
theorem decode_encode {i : Instr} (h : i.wellFormed = true) : decode (encode i) = .command i := by
  rw [decode_of_opcode (encodedWord i h).1, withArgumentsOf_encode h]

/-! ### The bits a command uses (30_encoding R112, R115) -/

/-- The opcode is among the used bits of every command. -/
theorem opcodeOf_and_usedBits (w : Word) (i : Instr) : opcodeOf (w &&& usedBits i) = opcodeOf w :=
  field_and_of_ones (by cases i <;> simp [usedBits, field]) w

/-- The arguments of a row are among its used bits. -/
theorem withArgumentsOf_and_usedBits (w : Word) (i : Instr) :
    withArgumentsOf (w &&& usedBits i) i = withArgumentsOf w i := by
  cases i with
  | qrsSeed => exact congrArg Instr.qrsSeed (field_and_of_ones (by simp [usedBits, field]) w)
  | patRead =>
    simp only [withArgumentsOf, Instr.patRead.injEq]
    refine ⟨field_and_of_ones ?_ w, field_and_of_ones ?_ w, field_and_of_ones ?_ w⟩ <;> simp [usedBits, field]
  | edSplit => exact congrArg Instr.edSplit (field_and_of_ones (by simp [usedBits, field]) w)
  | _ => rfl

/-- A word with the opcode of `i` and clear reserved bits is the encoding of its command. -/
theorem encode_withArgumentsOf {w : Word} {i : Instr} (h : opcodeOf w = opcode i) :
    encode (withArgumentsOf w i) = w &&& usedBits i := by
  rw [← withArgumentsOf_and_usedBits]
  rw [← opcodeOf_and_usedBits w i] at h
  have hclear : ∀ lo len, field (usedBits i) lo len = 0 → field (w &&& usedBits i) lo len = 0 :=
    fun lo len hm => field_and_of_zeros hm w
  refine BitVec.eq_of_toNat_eq ?_
  have hlt := (w &&& usedBits i).isLt
  generalize w &&& usedBits i = u at *
  -- the reserved fields of each format are clear, so the word is the sum of its other fields
  cases i
  case' qrsSeed => have hres := hclear 24 8 (by simp [usedBits, field])
  case' patRead =>
    have hres : field u 13 3 = 0 ∧ field u 21 3 = 0 ∧ field u 26 6 = 0 := by
      refine ⟨hclear 13 3 ?_, hclear 21 3 ?_, hclear 26 6 ?_⟩ <;> simp [usedBits, field]
  case' edSplit => have hres := hclear 16 16 (by simp [usedBits, field])
  case' nop | construct | processPlane | softReset | rngStep | rngEol | rngSeed | qrsNext | gainQuery =>
    have hres := hclear 8 24 (by simp [usedBits, field])
  all_goals
    simp only [opcodeOf, opcode, field] at h hres
    simp only [withArgumentsOf, encode, argumentBits, opcode, field, BitVec.toNat_ofNat]
    omega

/-! ### The rows of the opcode map (30_encoding R114, R115) -/

/-- One command for each row of the opcode map, in its order. -/
def commandRows : List Instr :=
  [.nop, .construct, .processPlane, .softReset, .rngStep, .rngEol, .rngSeed, .qrsSeed 0, .qrsNext, .patRead 0 0 0,
    .gainQuery, .edSplit 0]

/-- A legal opcode is that of a row. -/
theorem exists_opcode_eq {n : Nat} (h : n ∈ legalOpcodes) : ∃ i, opcode i = n := by
  have hrows : legalOpcodes = commandRows.map opcode := rfl
  obtain ⟨i, -, hi⟩ := List.mem_map.1 (hrows ▸ h)
  exact ⟨i, hi⟩

/-- A word whose opcode is in no row is illegal. -/
theorem decode_of_not_legal {w : Word} (h : opcodeOf w ∉ legalOpcodes) : decode w = .illegal w := by
  unfold decode
  split
  case h_13 => rfl
  all_goals next hop => exact absurd (by rw [hop]; decide) h

/-! ### Format words (10_state R39) -/

/-- A word whose bits outside a mask are clear is its own masked value. -/
theorem and_of_reserved_clear {w m : Word} (h : w &&& ~~~m = 0) : w &&& m = w := by
  have hsplit : w &&& m ||| w &&& ~~~m = w := by
    rw [← BitVec.and_or_distrib_left, BitVec.or_not_self, BitVec.and_allOnes]
  simpa [h] using hsplit

end Sys2Proof.Machine

open Sys2Proof Sys2Proof.Machine Sys2Proof.Claims

/-- Settles O1. -/
theorem decodeOfEncodeIsTheCommand : Obligations.DecodeOfEncodeIsTheCommand :=
  fun _ h => decode_encode h

/-- Settles O2: the opcode picks the row, whose arguments and encoding see only the used bits. -/
theorem decoderIsTotalAndIgnoresReservedBits : Obligations.DecoderIsTotalAndIgnoresReservedBits := by
  intro w
  rw [← opcodeOf_eq_mod]
  refine ⟨decode_of_not_legal, fun hlegal => ?_⟩
  obtain ⟨i, hi⟩ := exists_opcode_eq hlegal
  have hw : opcodeOf w = opcode i := hi.symm
  refine ⟨withArgumentsOf w i, decode_of_opcode hw, by rw [opcode_withArgumentsOf, hi],
    wellFormed_withArgumentsOf w i, ?_, fun v hv => ?_⟩
  · rw [usedBits_withArgumentsOf, encode_withArgumentsOf hw]
  · rw [usedBits_withArgumentsOf] at hv
    have hvop : opcodeOf v = opcode i := by rw [← opcodeOf_and_usedBits v i, hv, opcodeOf_and_usedBits, hw]
    rw [decode_of_opcode hvop, ← withArgumentsOf_and_usedBits v, hv, withArgumentsOf_and_usedBits]

/-- Settles O4. -/
theorem legalFormatWordsAreTheListed : Obligations.LegalFormatWordsAreTheListed := by
  intro w h
  have hw : w &&& 0x33F = w := and_of_reserved_clear h
  have hlegal := formatLegal_iff w
  rw [hw] at hlegal
  exact ⟨formatOf_eq_ruleFormat w, hlegal⟩

/-- Settles O3: the table's words by evaluation, and the three test vectors as encodings of their commands. -/
theorem assemblyTable : Obligations.AssemblyTable := by
  refine ⟨rfl, rfl, rfl, rfl, rfl, rfl, rfl, rfl, rfl, rfl, rfl, rfl, rfl, ?_, ?_, ?_⟩
  · exact decode_encode (i := .patRead 5 6 0) rfl
  · exact decode_encode (i := .edSplit 200) rfl
  · exact decode_encode (i := .qrsSeed 5) rfl

end

section
/-! SUPPORT. The noise generator by numbers: its two linear congruential steps, the seed, the signed top byte, the effective
amplitude, and what a command that needs a configuration does with and without one. -/

namespace Sys2Proof.Machine

open Sys2Proof.Claims

/-! ### The two steps (41_noise R161, R162) -/

/-- A linear congruential step on words is the step on numbers, modulo 2^32. -/
theorem mul_add_eq_ofNat_mod (s m c : Word) :
    s * m + c = BitVec.ofNat 32 ((s.toNat * m.toNat + c.toNat) % 2 ^ 32) :=
  BitVec.eq_of_toNat_eq (by simp)

/-- The per-pixel step is that of 41_noise R161. -/
theorem ngStep_eq_ruleStep (s : Word) : ngStep s = ruleStep s :=
  mul_add_eq_ofNat_mod s ngStepMul ngStepInc

/-- The state after the first step of `eol`, as a number (41_noise R162). -/
def eolFirst (s : Word) : Nat := (s.toNat * 1103515245 + 12345) % 2 ^ 32

/-- The first step of `eol` on words is the one on numbers. -/
theorem ngEol_first (s : Word) : s * ngEolMul + ngEolInc = BitVec.ofNat 32 (eolFirst s) :=
  mul_add_eq_ofNat_mod s ngEolMul ngEolInc

/-- `eolFirst` is the number of a word. -/
theorem toNat_ofNat_eolFirst (s : Word) : (BitVec.ofNat 32 (eolFirst s)).toNat = eolFirst s :=
  (BitVec.toNat_ofNat ..).trans (Nat.mod_mod ..)

/-- A bit of a word by division of its number. -/
theorem bitOf_iff (w : Word) (i : Nat) : bitOf w i = true ↔ w.toNat / 2 ^ i % 2 = 1 := by
  rw [bitOf, BitVec.getLsbD, Nat.testBit_eq_decide_div_mod_eq, decide_eq_true_iff]

/-- `eol` takes its extra step when bit 25 of the first result is 1 (41_noise R162). -/
theorem ngEol_eq (s : Word) : ngEol s =
    BitVec.ofNat 32 (if eolFirst s / 2 ^ 25 % 2 = 1 then (eolFirst s * 134775813 + 1) % 2 ^ 32 else eolFirst s) := by
  have hbit : bitOf (BitVec.ofNat 32 (eolFirst s)) ngEolBit = true ↔ eolFirst s / 2 ^ 25 % 2 = 1 := by
    rw [bitOf_iff, toNat_ofNat_eolFirst, ngEolBit]
  simp only [ngEol, ngEol_first, hbit]
  split_ifs
  · rw [mul_add_eq_ofNat_mod, toNat_ofNat_eolFirst]
    rfl
  · rfl

/-! ### The seed (41_noise R166) -/

/-- The plane index shifted to bit 16 is the masked register shifted there (10_state R45). -/
theorem ofNat_planeIndexOf_shift (r : InputRegs) :
    BitVec.ofNat 32 (planeIndexOf r * 2 ^ 16) = (r.jobPlane &&& 0x3) <<< 16 := by
  have hmask : (r.jobPlane &&& 0x3).toNat = planeIndexOf r := by
    rw [BitVec.toNat_and]
    exact (Nat.and_two_pow_sub_one_eq_mod _ 2).trans (by simp [planeIndexOf, field])
  apply BitVec.eq_of_toNat_eq
  rw [BitVec.toNat_shiftLeft, hmask, Nat.shiftLeft_eq, BitVec.toNat_ofNat]

/-- The seed from the job registers (41_noise R165, R166). -/
theorem ngSeed_planeIndexOf (frame : Word) (r : InputRegs) (static corr : Bool) :
    ngSeed frame (planeIndexOf r) static corr =
      (if static = true then 0x4B2E8F31 else frame) ^^^
        (if corr = true then (0 : Word) else (r.jobPlane &&& 0x3) <<< 16) := by
  rw [ngSeed, ofNat_planeIndexOf_shift]
  rfl

/-! ### The signed top byte and the draws (41_noise R163, R167) -/

/-- The model's top byte is bits 31:24 as a signed value. -/
theorem topByte_eq_signedTop (s : Word) : topByte s = signedTop s := by
  have hbyte : BitVec.ofNat 8 (field s 24 8) = s.extractLsb' 24 8 :=
    BitVec.eq_of_toNat_eq (by simp [field, Nat.shiftRight_eq_div_pow])
  rw [topByte, hbyte, signedTop]

/-- A signed byte is in −128..127. -/
theorem signedTop_bounds (s : Word) : -128 ≤ signedTop s ∧ signedTop s ≤ 127 := by
  have hlo := (s.extractLsb' 24 8).le_toInt
  have hhi := (s.extractLsb' 24 8).toInt_lt
  unfold signedTop
  omega

/-- A sign-extended top byte keeps its value (41_noise R163). -/
theorem toInt_ofInt_signedTop (s : Word) : (BitVec.ofInt 32 (signedTop s)).toInt = signedTop s := by
  obtain ⟨hlo, hhi⟩ := signedTop_bounds s
  exact BitVec.toInt_ofInt_eq_self (by decide) (by omega) (by omega)

/-- A draw steps once and gives the signed top byte (41_noise R167). -/
theorem ngDraw_false (s : Word) : ngDraw s false = (ruleStep s, signedTop (ruleStep s)) := by
  simp only [ngDraw, ngStep_eq_ruleStep, topByte_eq_signedTop, Bool.false_eq_true, if_false]

/-- A TPDF draw steps twice and gives the sum of both signed top bytes (41_noise R167). -/
theorem ngDraw_true (s : Word) : ngDraw s true =
    (ruleStep (ruleStep s), signedTop (ruleStep s) + signedTop (ruleStep (ruleStep s))) := by
  simp only [ngDraw, ngStep_eq_ruleStep, topByte_eq_signedTop, if_true]

/-! ### The effective amplitude (41_noise R168) -/

/-- Without TPDF_NOISE the amplitude is ACT.ampn. -/
theorem ampnEff_of_plain {a : ActiveConfig} (h : a.tpdfNoise = false) : ampnEff a = a.ampn := by
  simp [ampnEff, h]

/-- With TPDF_NOISE the amplitude is scaled by √2/2 in Q16 and rounded. -/
theorem ampnEff_of_tpdf {a : ActiveConfig} (h : a.tpdfNoise = true) : ampnEff a = rnd ((a.ampn : Int) * 46341) 65536 := by
  simp [ampnEff, h, ngTpdfFactor]

/-- The scaled amplitude is between 0 and ACT.ampn, the factor being less than 1. -/
theorem ampnEff_bounds (a : ActiveConfig) : 0 ≤ ampnEff a ∧ ampnEff a ≤ a.ampn := by
  cases h : a.tpdfNoise with
  | false => rw [ampnEff_of_plain h]; omega
  | true =>
    obtain ⟨hlo, hhi⟩ := rnd_bounds ((a.ampn : Int) * 46341) (d := 65536) (by decide)
    rw [ampnEff_of_tpdf h]
    omega

/-! ### Commands that need a configuration (60_exceptions R365) -/

/-- A command that needs a configuration completes when there is one (60_exceptions R365). -/
theorem whenConstructed_of_valid (i : Instr) {s : State} (t : State) (h : s.cfgValid = true) :
    whenConstructed i s t = .next (succeed t) := by
  rcases whenConstructed_cases i s t with ⟨-, he⟩ | ⟨hinvalid, -⟩
  · exact he
  · exact absurd (h.symm.trans hinvalid) (by decide)

/-- A command that needs a configuration records NOT_CONSTRUCTED with the command word when there is none, and changes
nothing else (60_exceptions R365). -/
theorem whenConstructed_of_invalid (i : Instr) {s : State} (t : State) (h : s.cfgValid = false) :
    whenConstructed i s t = .next (failed 0x22 (reportedWord s i) s) := by
  rcases whenConstructed_cases i s t with ⟨hvalid, -⟩ | ⟨-, he⟩
  · exact absurd (h.symm.trans hvalid) (by decide)
  · exact he

/-! ### The three commands (41_noise R163 to R165) -/

/-- The state after a noise command completes with `ns` in RNG_STATE and `out` in RNG_OUT: DONE is set, the latch is
empty, and nothing else has changed (46_engine R311). -/
def noiseCompleted (s : State) (ns out : Word) : State :=
  { s with inp := { s.inp with rngState := ns }, rngOut := out, irqStatus := s.irqStatus ||| 0x1, latch := none }

/-- A noise command leaves plane memory. -/
theorem memorySame_noiseCompleted (s : State) (ns out : Word) : MemorySame s (noiseCompleted s ns out) :=
  fun _ => rfl

/-- RNG_OUT after a noise command. -/
@[simp] theorem noiseCompleted_rngOut (s : State) (ns out : Word) : (noiseCompleted s ns out).rngOut = out := rfl

/-- RNG_STATE after a noise command. -/
@[simp] theorem noiseCompleted_rngState (s : State) (ns out : Word) : (noiseCompleted s ns out).inp.rngState = ns := rfl

/-- The model's completion of a noise command. -/
theorem succeed_noise (s : State) (ns out : Word) :
    succeed { s with inp := { s.inp with rngState := ns }, rngOut := out } = noiseCompleted s ns out := rfl

/-- RNG_STEP (41_noise R163). -/
theorem execRngStep_eq (s : State) : execRngStep s = .next (noiseCompleted s (ruleStep s.operands.rngState)
    (BitVec.ofInt 32 (signedTop (ruleStep s.operands.rngState)))) := by
  simp only [execRngStep, succeed_noise, ngStep_eq_ruleStep, topByte_eq_signedTop]

/-- RNG_EOL (41_noise R164). -/
theorem execRngEol_eq (s : State) :
    execRngEol s = .next (noiseCompleted s (ngEol s.operands.rngState) s.rngOut) := by
  rw [execRngEol, succeed_noise]

/-- RNG_SEED with a configuration (41_noise R165). -/
theorem execRngSeed_of_valid {s : State} (h : s.cfgValid = true) : execRngSeed s = .next (noiseCompleted s
    (ngSeed s.operands.jobFrame (planeIndexOf s.operands) s.act.static s.act.corr) s.rngOut) := by
  rw [execRngSeed, whenConstructed_of_valid _ _ h, succeed_noise]

end Sys2Proof.Machine

open Sys2Proof Sys2Proof.Machine Sys2Proof.Claims

/-- Settles O20: the command stores the step of R161 and shows its top byte. -/
theorem rngStepAdvancesTheState : Obligations.RngStepAdvancesTheState := by
  intro s
  refine ⟨_, execRngStep_eq s, memorySame_noiseCompleted _ _ _, rfl, ?_⟩
  rw [noiseCompleted_rngOut, noiseCompleted_rngState, toInt_ofInt_signedTop, signedTop]

/-- Settles O21: the command stores `eol` of the latched state. -/
theorem rngEolTakesTheExtraStepOnBit25 : Obligations.RngEolTakesTheExtraStepOnBit25 := by
  intro s
  refine ⟨_, eolFirst s.operands.rngState, execRngEol_eq s, memorySame_noiseCompleted _ _ _, rfl, ?_⟩
  rw [ngEol_eq, noiseCompleted]

/-- Settles O22: with a configuration the command stores the seed, without one it is NOT_CONSTRUCTED. -/
theorem rngSeedLoadsTheJobSeed : Obligations.RngSeedLoadsTheJobSeed := by
  intro s
  refine ⟨fun h => ⟨_, execRngSeed_of_valid h, memorySame_noiseCompleted _ _ _, ?_⟩,
    fun h => whenConstructed_of_invalid .rngSeed _ h⟩
  rw [ngSeed_planeIndexOf, noiseCompleted]

/-- Settles O23: the draws by the rule's step, their ranges from those of a signed byte, and the amplitude from the
rounding of 00_scope R12. -/
theorem noiseRanges : Obligations.NoiseRanges := by
  refine ⟨fun s => ⟨ngDraw_false s, ngDraw_true s⟩, fun s => ?_, fun a ha => ?_⟩
  · have h1 := signedTop_bounds (ruleStep s)
    have h2 := signedTop_bounds (ruleStep (ruleStep s))
    rw [ngDraw_false, ngDraw_true]
    omega
  · obtain ⟨hlo, hhi⟩ := ampnEff_bounds a
    refine ⟨hlo, by omega, ampnEff_of_plain, fun h => ?_⟩
    rw [ampnEff_of_tpdf h, ← nearest_eq_rnd, nearest]
    push_cast
    rfl

end

section
/-! SUPPORT. The pattern builder by numbers: the Bayer ranks, the TPDF remap, the rotations, the cells CONSTRUCT stores, and
the toroidal read of PAT_READ. -/

namespace Sys2Proof.Machine

open Sys2Proof.Claims

/-! ### The Bayer pattern (42_pattern R182, R183) -/

/-- The rank of a cell's quadrant among its parent's four (42_pattern R182). -/
def quadrantRank (y x : Nat) : Nat := [0, 2, 3, 1].getD (y % 2 * 2 + x % 2) 0

/-- The recursive numbering of the Bayer ranks. -/
theorem bayerRank_succ (n y x : Nat) :
    bayerRank (n + 1) y x = bayerRank n (y / 2) (x / 2) + quadrantRank y x * 4 ^ n := rfl

/-- The quadrant order 0, 2, 3, 1 by the coordinates' low bits: their sum modulo 2, then the row's. -/
theorem quadrantRank_eq (y x : Nat) : quadrantRank y x = (y + x) % 2 * 2 + y % 2 := by
  rw [quadrantRank, Nat.add_mod y x]
  have htable : ∀ i < 2, ∀ j < 2, [0, 2, 3, 1].getD (i * 2 + j) 0 = (i + j) % 2 * 2 + i := by decide
  exact htable _ (Nat.mod_lt y two_pos) _ (Nat.mod_lt x two_pos)

/-- The quadrant values of the source are its quadrant ranks, 64 apart (42_pattern R182). -/
theorem bayerQuadrant_eq (y x : Nat) : bayerQuadrant (y % 2 * 2 + x % 2) = ((quadrantRank y x * 64 : Nat) : Int) := by
  have htable : ∀ q < 4, bayerQuadrant q = (([0, 2, 3, 1].getD q 0 * 64 : Nat) : Int) := by decide
  exact htable _ (by omega)

/-- One level of the closed form: a quarter of the parent's value, and 64 for each quadrant rank. -/
theorem scaled_rank_succ (r q n : Nat) : (r + q * 4 ^ n) * 256 / 4 ^ (n + 1) = r * 256 / 4 ^ n / 4 + q * 64 := by
  have hsplit : (r + q * 4 ^ n) * 256 = r * 256 + q * 64 * 4 ^ (n + 1) := by ring
  rw [hsplit, Nat.add_mul_div_right _ _ (by positivity), Nat.div_div_eq_div_mul, pow_succ]

/-- The closed form of the Bayer pattern (42_pattern R183). -/
theorem bayerCell_eq (n y x : Nat) : bayerCell n y x = ((bayerRank n y x * 256 / 4 ^ n : Nat) : Int) - 128 := by
  induction n generalizing y x with
  | zero => simp [bayerCell, bayerRank]
  | succ n ih =>
    rw [bayerRank_succ, scaled_rank_succ, bayerCell, ih, bayerQuadrant_eq]
    omega

/-- The Bayer ranks of a side 2^n are below its number of cells (42_pattern R183). -/
theorem bayerRank_lt (n y x : Nat) : bayerRank n y x < 4 ^ n := by
  induction n generalizing y x with
  | zero => exact Nat.one_pos
  | succ n ih =>
    have hquadrant : quadrantRank y x ≤ 3 := by rw [quadrantRank_eq]; omega
    rw [bayerRank_succ]
    calc bayerRank n (y / 2) (x / 2) + quadrantRank y x * 4 ^ n
      _ < 4 ^ n + 3 * 4 ^ n := Nat.add_lt_add_of_lt_of_le (ih _ _) (Nat.mul_le_mul_right _ hquadrant)
      _ = 4 ^ (n + 1) := by ring

/-- A Bayer rank gives the parent's rank and the quadrant, as quotient and remainder. -/
theorem bayerRank_succ_inj {n y x y' x' : Nat} (h : bayerRank (n + 1) y x = bayerRank (n + 1) y' x') :
    bayerRank n (y / 2) (x / 2) = bayerRank n (y' / 2) (x' / 2) ∧ quadrantRank y x = quadrantRank y' x' := by
  rw [bayerRank_succ, bayerRank_succ] at h
  have hrank := congrArg (· % 4 ^ n) h
  have hquadrant := congrArg (· / 4 ^ n) h
  simpa [Nat.add_mul_div_right, Nat.add_mul_mod_self_right, Nat.mod_eq_of_lt, Nat.div_eq_of_lt, bayerRank_lt] using
    And.intro hrank hquadrant

/-- Distinct cells of the 2^n × 2^n pattern have distinct Bayer ranks (42_pattern R183). -/
theorem bayerRank_injective {n y x y' x' : Nat} (hy : y < 2 ^ n) (hx : x < 2 ^ n) (hy' : y' < 2 ^ n) (hx' : x' < 2 ^ n)
    (h : bayerRank n y x = bayerRank n y' x') : y = y' ∧ x = x' := by
  induction n generalizing y x y' x' with
  | zero => omega
  | succ n ih =>
    obtain ⟨hparent, hquadrant⟩ := bayerRank_succ_inj h
    have hhalf := ih (by omega) (by omega) (by omega) (by omega) hparent
    rw [quadrantRank_eq, quadrantRank_eq] at hquadrant
    omega

/-! ### The TPDF remap (42_pattern R186) -/

/-- The model's remap is the rule's formula, both coefficients being 128. -/
theorem tpdfRemap_eq_ruleTpdf (d : Int) : tpdfRemap d = ruleTpdf d := rfl

/-- The dividend of the TPDF remap, as a sum of odd powers. -/
theorem tpdf_dividend_eq (d : Int) :
    d * (tpdfC * d ^ 2 * 2 ^ 210 + tpdfC * d ^ 32) = 128 * 2 ^ 210 * d ^ 3 + 128 * d ^ 33 := by
  rw [tpdfC]
  ring

/-- The TPDF remap is odd. -/
theorem tpdfRemap_neg (d : Int) : tpdfRemap (-d) = -tpdfRemap d := by
  have hodd : 128 * 2 ^ 210 * (-d) ^ 3 + 128 * (-d) ^ 33 = -(128 * 2 ^ 210 * d ^ 3 + 128 * d ^ 33) := by ring
  rw [tpdfRemap, tpdfRemap, tpdf_dividend_eq, tpdf_dividend_eq, hodd, Int.neg_tdiv, neg_add]

/-- The TPDF remap is non-decreasing: odd powers and the truncated quotient are. -/
theorem tpdfRemap_mono {d d' : Int} (h : d ≤ d') : tpdfRemap d ≤ tpdfRemap d' := by
  have hcube : d ^ 3 ≤ d' ^ 3 := (Odd.pow_le_pow (by decide)).2 h
  have hpower : d ^ 33 ≤ d' ^ 33 := (Odd.pow_le_pow (by decide)).2 h
  rw [tpdfRemap, tpdfRemap, tpdf_dividend_eq, tpdf_dividend_eq]
  exact add_le_add h (Int.tdiv_le_tdiv (by positivity) (by linarith))

/-- The TPDF remap of the least cell value. -/
theorem tpdfRemap_least : tpdfRemap (-128) = -256 := by decide

/-- The TPDF remap of the greatest cell value. -/
theorem tpdfRemap_greatest : tpdfRemap 127 = 238 := by decide

/-- The TPDF remap takes the cell values into −256..238. -/
theorem tpdfRemap_bounds {d : Int} (hlo : -128 ≤ d) (hhi : d ≤ 127) : -256 ≤ tpdfRemap d ∧ tpdfRemap d ≤ 238 :=
  ⟨tpdfRemap_least ▸ tpdfRemap_mono hlo, tpdfRemap_greatest ▸ tpdfRemap_mono hhi⟩

/-! ### The rotations (42_pattern R187) -/

/-- Every rotation reads a cell of the matrix. -/
theorem rotatedCoord_lt {k side y x : Nat} (hk : k < 4) (hy : y < side) (hx : x < side) :
    (rotatedCoord k side y x).1 < side ∧ (rotatedCoord k side y x).2 < side := by
  match k, hk with
  | 0, _ => exact ⟨hy, hx⟩
  | 1, _ => exact ⟨show side - 1 - x < side by omega, hy⟩
  | 2, _ => exact ⟨show side - 1 - y < side by omega, show side - 1 - x < side by omega⟩
  | 3, _ => exact ⟨hx, show side - 1 - y < side by omega⟩

/-- A coordinate reflected twice is itself. -/
theorem reflect_reflect {side c : Nat} (h : c < side) : side - 1 - (side - 1 - c) = c := by omega

/-! ### The cells of a pattern (42_pattern R181 to R189) -/

/-- A rank below the number of cells scales to a byte's value (42_pattern R183, R184). -/
theorem scaledRank_bounds {rank cells : Nat} (h : rank < cells) :
    -128 ≤ ((rank * 256 / cells : Nat) : Int) - 128 ∧ ((rank * 256 / cells : Nat) : Int) - 128 ≤ 127 := by
  have hlt : rank * 256 / cells < 256 := Nat.div_lt_of_lt_mul (Nat.mul_lt_mul_of_pos_right h (by decide))
  generalize rank * 256 / cells = v at hlt ⊢
  omega

/-- The number of cells of a legal side is the power of four of its logarithm (42_pattern R180). -/
theorem sq_patternSide {side : Nat} (h : side ∈ Config.patternSides) : side * side = 4 ^ Nat.log2 side := by
  have hall : ∀ n ∈ Config.patternSides, n * n = 4 ^ Nat.log2 n := by decide
  exact hall side h

/-- A legal side has a cell and fits the store (42_pattern R180). -/
theorem patternSide_bounds {side : Nat} (h : side ∈ Config.patternSides) : 0 < side ∧ side ≤ 32 := by
  have hall : ∀ n ∈ Config.patternSides, 0 < n ∧ n ≤ 32 := by decide
  exact hall side h

/-- Every entry of a legal table is a rank (10_state R54). -/
theorem vacRank_lt {s : State} (ht : TablesLegal s) {side : Nat} (h : side ∈ Config.patternSides) (i : Nat) :
    (vacTableOf s.vacRank side).getD i 0 < side * side := by
  obtain ⟨hvac, -⟩ := ht
  obtain ⟨hpos, -⟩ := patternSide_bounds h
  rw [List.getD_eq_getElem?_getD]
  cases hi : (vacTableOf s.vacRank side)[i]? with
  | none => exact Nat.mul_pos hpos hpos
  | some rank => exact List.mem_range.1 ((hvac side h).mem_iff.1 (List.mem_of_getElem? hi))

/-- The model's base pattern is the rules' (42_pattern R181, R183 to R185). -/
theorem baseCell_eq_ruleBase (ranks : List (List Nat)) {a : ActiveConfig} (h : a.side ∈ Config.patternSides) (y x : Nat) :
    baseCell ranks a.mode a.side y x = ruleBase ranks a y x := by
  unfold baseCell ruleBase
  cases a.mode with
  | bayer => rw [bayerCell_eq, sq_patternSide h]
  | _ => rfl

/-- The base pattern's cells are in −128..127 (42_pattern R192). -/
theorem ruleBase_bounds {s : State} (ht : TablesLegal s) {a : ActiveConfig} (h : a.side ∈ Config.patternSides)
    (y x : Nat) : -128 ≤ ruleBase s.vacRank a y x ∧ ruleBase s.vacRank a y x ≤ 127 := by
  unfold ruleBase
  cases a.mode with
  | bayer => exact scaledRank_bounds (sq_patternSide h ▸ bayerRank_lt _ y x)
  | vac => exact scaledRank_bounds (vacRank_lt ht h _)
  | _ => exact ⟨(by decide : (-128 : Int) ≤ 0), (by decide : (0 : Int) ≤ 127)⟩

/-- Without TPDF_OUT the matrix is the base pattern (42_pattern R186). -/
theorem ruleMatrix_of_plain (ranks : List (List Nat)) {a : ActiveConfig} (h : a.tpdfOut = false) (y x : Nat) :
    ruleMatrix ranks a y x = ruleBase ranks a y x := by
  simp [ruleMatrix, h]

/-- With TPDF_OUT it is the remapped base pattern (42_pattern R186). -/
theorem ruleMatrix_of_tpdf (ranks : List (List Nat)) {a : ActiveConfig} (h : a.tpdfOut = true) (y x : Nat) :
    ruleMatrix ranks a y x = tpdfRemap (ruleBase ranks a y x) := by
  rw [ruleMatrix, if_pos h, tpdfRemap_eq_ruleTpdf]

/-- The matrix's cells are in −256..238, and in −128..127 without TPDF_OUT (42_pattern R186, R192). -/
theorem ruleMatrix_bounds {s : State} (ht : TablesLegal s) {a : ActiveConfig} (h : a.side ∈ Config.patternSides)
    (y x : Nat) : -256 ≤ ruleMatrix s.vacRank a y x ∧ ruleMatrix s.vacRank a y x ≤ 238 ∧
      (a.tpdfOut = false → -128 ≤ ruleMatrix s.vacRank a y x ∧ ruleMatrix s.vacRank a y x ≤ 127) := by
  obtain ⟨hlo, hhi⟩ := ruleBase_bounds ht h y x
  cases hout : a.tpdfOut with
  | false =>
    rw [ruleMatrix_of_plain _ hout]
    exact ⟨by omega, by omega, fun _ => ⟨hlo, hhi⟩⟩
  | true =>
    obtain ⟨hlo', hhi'⟩ := tpdfRemap_bounds hlo hhi
    rw [ruleMatrix_of_tpdf _ hout]
    exact ⟨hlo', hhi', fun hc => by cases hc⟩

/-- A rotation's cell is the matrix's cell it reads (42_pattern R187). -/
theorem ruleCell_eq_ruleMatrix (ranks : List (List Nat)) (a : ActiveConfig) (k y x : Nat) :
    ruleCell ranks a k y x = ruleMatrix ranks a (rotatedCoord k a.side y x).1 (rotatedCoord k a.side y x).2 := by
  match k with
  | 0 => rfl
  | 1 => rfl
  | 2 => rfl
  | _ + 3 => rfl

/-- The model's cell is the rules' (42_pattern R189). -/
theorem builtCell_eq_ruleCell (ranks : List (List Nat)) {a : ActiveConfig} (h : a.side ∈ Config.patternSides)
    (k y x : Nat) : builtCell ranks a k y x = ruleCell ranks a k y x := by
  simp only [ruleCell_eq_ruleMatrix, builtCell, ruleMatrix, baseCell_eq_ruleBase ranks h, tpdfRemap_eq_ruleTpdf]

/-! ### The store and its toroidal read (10_state R53, 42_pattern R189 to R191) -/

/-- A signed 10-bit cell holds every cell value (42_pattern R192). -/
theorem toInt_ofInt_cell {v : Int} (hlo : -256 ≤ v) (hhi : v ≤ 238) : (BitVec.ofInt 10 v).toInt = v :=
  BitVec.toInt_ofInt_eq_self (by decide) (by omega) (by omega)

/-- A cell of the built store inside S × S (42_pattern R189). -/
theorem patCell_buildPattern_inside (ranks : List (List Nat)) {a : ActiveConfig} (old : PatStore)
    (h : a.side ∈ Config.patternSides) {k r c : Nat} (hk : k < 4) (hr : r < a.side) (hc : c < a.side) :
    patCell (buildPattern ranks a old) k r c = BitVec.ofInt 10 (ruleCell ranks a k r c) := by
  obtain ⟨-, hside⟩ := patternSide_bounds h
  rw [buildPattern, patCell_patOf _ hk (by omega) (by omega), if_pos ⟨hr, hc⟩, builtCell_eq_ruleCell ranks h]

/-- A cell of the store outside S × S keeps what it held (42_pattern R189). -/
theorem patCell_buildPattern_outside (ranks : List (List Nat)) {a : ActiveConfig} (old : PatStore)
    {k r c : Nat} (hk : k < 4) (hr : r < 32) (hc : c < 32) (h : a.side ≤ r ∨ a.side ≤ c) :
    patCell (buildPattern ranks a old) k r c = patCell old k r c := by
  rw [buildPattern, patCell_patOf _ hk hr hc, if_neg (by omega)]

/-- A toroidal read after the commit of a legal configuration (42_pattern R191). -/
theorem patval_commitConfig {s : State} (ht : TablesLegal s) {a : ActiveConfig} (h : a.side ∈ Config.patternSides)
    {k : Nat} (hk : k < 4) (px py : Nat) :
    patval (commitConfig a s) k px py = ruleCell s.vacRank a k (py % a.side) (px % a.side) := by
  obtain ⟨hpos, -⟩ := patternSide_bounds h
  rw [patval, commitConfig_act, commitConfig_pat,
    patCell_buildPattern_inside _ _ h hk (Nat.mod_lt _ hpos) (Nat.mod_lt _ hpos), ruleCell_eq_ruleMatrix]
  obtain ⟨hlo, hhi, -⟩ := ruleMatrix_bounds ht h (rotatedCoord k a.side (py % a.side) (px % a.side)).1
    (rotatedCoord k a.side (py % a.side) (px % a.side)).2
  exact toInt_ofInt_cell hlo hhi

/-- The completion of a command leaves the toroidal reads. -/
theorem patval_succeed (s : State) : patval (succeed s) = patval s := rfl

/-- PAT_OUT holds the sign-extended cell (42_pattern R190, 10_state R49). -/
theorem ofInt_patval (s : State) (k x y : Nat) :
    BitVec.ofInt 32 (patval s k x y) = (patCell s.pat k (y % s.act.side) (x % s.act.side)).signExtend 32 := rfl

end Sys2Proof.Machine

open Sys2Proof Sys2Proof.Machine Sys2Proof.Claims

/-- Settles O27: the table is the definition's, and a coordinate reflected twice is itself. -/
theorem rotationsAreQuarterTurns : Obligations.RotationsAreQuarterTurns := by
  intro side y x hy hx
  refine ⟨fun k hk => rotatedCoord_lt hk hy hx, rfl, rfl, rfl, rfl, rfl, ?_, ?_⟩
  · exact congrArg (·, x) (reflect_reflect hy)
  · exact congrArg (y, ·) (reflect_reflect hx)

/-- Settles O25: both recursions level by level; the printed matrices by evaluation. -/
theorem bayerClosedForm : Obligations.BayerClosedForm :=
  ⟨bayerCell_eq, bayerRank_lt, fun _ _ _ _ _ hy hx hy' hx' h => bayerRank_injective hy hx hy' hx' h,
    by decide, by decide, by decide, by decide⟩

/-- Settles O26: oddness and monotonicity of the odd powers and of the truncated quotient; the bounds are the values at
the ends. -/
theorem tpdfRemapIsOddAndMonotone : Obligations.TpdfRemapIsOddAndMonotone :=
  ⟨fun d => ⟨tpdfRemap_eq_ruleTpdf d, tpdfRemap_neg d⟩, rfl, fun _ _ _ h _ => tpdfRemap_mono h,
    fun _ hlo hhi => tpdfRemap_bounds hlo hhi, tpdfRemap_least, tpdfRemap_greatest⟩

/-- Settles O24: PAT_READ is a command that needs a configuration, and its result is the cell of the toroidal read. -/
theorem patReadShowsTheToroidalCell : Obligations.PatReadShowsTheToroidalCell := by
  intro s px py rot _
  rw [exec_patRead, execPatRead]
  exact ⟨fun h => ⟨_, whenConstructed_of_valid _ _ h, fun _ => rfl, rfl, ofInt_patval s rot px py⟩,
    fun h => whenConstructed_of_invalid _ _ h⟩

/-- Settles O28: an accepted configuration has a legal side, so that the store built for it holds the rules' cells, whose
bounds are those of the ranks and of the remap. -/
theorem constructBuildsTheWholePattern : Obligations.ConstructBuildsTheWholePattern := by
  intro s htables hnone
  rcases checkConfig_cases s.operands with ⟨e, hrule, -⟩ | ⟨-, a, hcheck, -⟩
  · rw [hnone] at hrule
    cases hrule
  have hexec : exec .construct s = .next (succeed (commitConfig a s)) := by
    rw [exec_construct, execConstruct, hcheck]
  obtain ⟨-, -, hside, -⟩ := checkConfig_ok_legal hcheck
  refine ⟨_, hexec, patOf_shaped _, fun k hk px py => ?_, fun k hk r hr c hc hout =>
    patCell_buildPattern_outside s.vacRank s.pat hk hr hc hout⟩
  have hread := patval_commitConfig htables hside hk px py
  rw [patval_succeed, succeed_act, commitConfig_act]
  refine ⟨hread, ?_⟩
  rw [hread, ruleCell_eq_ruleMatrix]
  exact ruleMatrix_bounds htables hside _ _

end

section
/-! SUPPORT. The quasirandom generator by numbers: the fold of a phase, the seed of a row, and the two commands. -/

namespace Sys2Proof.Machine

open Sys2Proof.Claims

/-! ### The fold (43_quasirandom R212) -/

/-- The fold by the phase's number: its top 9 bits are at most 511, so that no reduction is left. -/
theorem qgValue_eq (c : Word) : qgValue c =
    (if c.toNat / 2 ^ 23 < 256 then ((c.toNat / 2 ^ 23 : Nat) : Int) else 511 - ((c.toNat / 2 ^ 23 : Nat) : Int)) - 128 := by
  have htop : field c 23 9 = c.toNat / 2 ^ 23 := Nat.mod_eq_of_lt (by have := c.isLt; omega)
  simp only [qgValue, htop]

/-- The fold is a signed byte. -/
theorem qgValue_bounds (c : Word) : -128 ≤ qgValue c ∧ qgValue c ≤ 127 := by
  have hc := c.isLt
  rw [qgValue_eq]
  split <;> omega

/-- The complement of a phase has the complementary top bits, 511 less those of the phase, which fold alike. -/
theorem qgValue_not (c : Word) : qgValue (~~~c) = qgValue c := by
  have htop : (~~~c).toNat / 2 ^ 23 = 511 - c.toNat / 2 ^ 23 := by
    rw [BitVec.toNat_not]
    omega
  have hc := c.isLt
  rw [qgValue_eq, qgValue_eq, htop]
  split <;> split <;> omega

/-- On the first half turn the fold is the top bits themselves, which do not fall. -/
theorem qgValue_mono {c d : Word} (hle : c ≤ d) (hd : d < 0x80000000) : qgValue c ≤ qgValue d := by
  have hdn : d.toNat < 2 ^ 31 := BitVec.lt_def.1 hd
  have htop : c.toNat / 2 ^ 23 ≤ d.toNat / 2 ^ 23 := Nat.div_le_div_right (BitVec.le_def.1 hle)
  rw [qgValue_eq, qgValue_eq, if_pos (by omega), if_pos (by omega)]
  omega

/-- QRS_OUT keeps the fold's value (43_quasirandom R215). -/
theorem toInt_ofInt_qgValue (c : Word) : (BitVec.ofInt 32 (qgValue c)).toInt = qgValue c := by
  obtain ⟨hlo, hhi⟩ := qgValue_bounds c
  exact BitVec.toInt_ofInt_eq_self (by decide) (by omega) (by omega)

/-! ### The seed of a row (43_quasirandom R211) -/

/-- The seed on words is the sum of its three terms on numbers, modulo 2^32. -/
theorem qgSeed_toNat (y : Nat) (frame : Word) (plane : Nat) (dyn corr : Bool) :
    (qgSeed y frame plane dyn corr).toNat =
      (y * 0x91E10DA6 + (if dyn = true then frame.toNat * 0x9E3779B9 else 0) +
        (if corr = false then plane * 0x55555555 else 0)) % 2 ^ 32 := by
  have hframe : (if dyn = true then frame * qgK1 else 0) =
      BitVec.ofNat 32 (if dyn = true then frame.toNat * 0x9E3779B9 else 0) := by
    split
    · rw [BitVec.ofNat_mul, BitVec.ofNat_toNat, BitVec.setWidth_eq]
      rfl
    · rfl
  have hplane : (if corr = true then 0 else BitVec.ofNat 32 plane * qgK2) =
      BitVec.ofNat 32 (if corr = false then plane * 0x55555555 else 0) := by
    cases corr with
    | true => rfl
    | false => exact (BitVec.ofNat_mul ..).symm
  have hrow : BitVec.ofNat 32 y * qgA2 = BitVec.ofNat 32 (y * 0x91E10DA6) := (BitVec.ofNat_mul ..).symm
  rw [qgSeed, hframe, hplane, hrow, ← BitVec.ofNat_add, ← BitVec.ofNat_add, BitVec.toNat_ofNat]

/-- The plane index is JOB_PLANE modulo 4 (10_state R45). -/
theorem planeIndexOf_eq (r : InputRegs) : planeIndexOf r = r.jobPlane.toNat % 4 := by
  simp [planeIndexOf, field]

/-! ### The two commands (43_quasirandom R214, R215) -/

/-- The state after a quasirandom command completes with `phase` in QRS_PHASE and `out` in QRS_OUT: DONE is set, the latch
is empty, and nothing else has changed (46_engine R311). -/
def quasirandomCompleted (s : State) (phase out : Word) : State :=
  { s with inp := { s.inp with qrsPhase := phase }, qrsOut := out, irqStatus := s.irqStatus ||| 0x1, latch := none }

/-- A quasirandom command leaves plane memory. -/
theorem memorySame_quasirandomCompleted (s : State) (phase out : Word) :
    MemorySame s (quasirandomCompleted s phase out) :=
  fun _ => rfl

/-- QRS_OUT after a quasirandom command. -/
@[simp] theorem quasirandomCompleted_qrsOut (s : State) (phase out : Word) :
    (quasirandomCompleted s phase out).qrsOut = out := rfl

/-- QRS_PHASE after a quasirandom command. -/
@[simp] theorem quasirandomCompleted_qrsPhase (s : State) (phase out : Word) :
    (quasirandomCompleted s phase out).inp.qrsPhase = phase := rfl

/-- The model's completion of a quasirandom command. -/
theorem succeed_quasirandom (s : State) (phase out : Word) :
    succeed { s with inp := { s.inp with qrsPhase := phase }, qrsOut := out } = quasirandomCompleted s phase out := rfl

/-- QRS_SEED with a configuration (43_quasirandom R214). -/
theorem execQrsSeed_of_valid (y : Nat) {s : State} (h : s.cfgValid = true) :
    execQrsSeed y s = .next (quasirandomCompleted s
      (qgSeed y s.operands.jobFrame (planeIndexOf s.operands) s.act.dyn s.act.corr) s.qrsOut) := by
  rw [execQrsSeed, whenConstructed_of_valid _ _ h, succeed_quasirandom]

/-- QRS_NEXT (43_quasirandom R215). -/
theorem execQrsNext_eq (s : State) : execQrsNext s = .next (quasirandomCompleted s
    (s.operands.qrsPhase + qgA1) (BitVec.ofInt 32 (qgValue s.operands.qrsPhase))) := by
  rw [execQrsNext, succeed_quasirandom]

end Sys2Proof.Machine

open Sys2Proof Sys2Proof.Machine Sys2Proof.Claims

/-- Settles O31: the fold by numbers; its three named values by evaluation. -/
theorem quasirandomFoldIsATriangleWave : Obligations.QuasirandomFoldIsATriangleWave := by
  refine ⟨qgValue_eq, by decide, by decide, by decide, fun c => ?_, fun c d => qgValue_mono⟩
  exact ⟨(qgValue_bounds c).1, (qgValue_bounds c).2, qgValue_not c⟩

/-- Settles O29: with a configuration the command stores the seed of row y, without one it is NOT_CONSTRUCTED. -/
theorem qrsSeedLoadsTheRowPhase : Obligations.QrsSeedLoadsTheRowPhase := by
  intro s y _
  refine ⟨fun h => ⟨_, execQrsSeed_of_valid y h, memorySame_quasirandomCompleted _ _ _, rfl, ?_⟩,
    fun h => whenConstructed_of_invalid (.qrsSeed y) _ h⟩
  rw [quasirandomCompleted_qrsPhase, qgSeed_toNat, planeIndexOf_eq]

/-- Settles O30: the command shows the fold of the latched phase and stores the phase after it. -/
theorem qrsNextOutputsThenAdvances : Obligations.QrsNextOutputsThenAdvances := by
  intro s
  refine ⟨_, execQrsNext_eq s, memorySame_quasirandomCompleted _ _ _, rfl, ?_⟩
  rw [quasirandomCompleted_qrsOut, toInt_ofInt_qgValue, qgValue_eq]
  rfl

end

section
/-! SUPPORT. A job whose rows run left to right: the steps before and after a pixel, the working state with which it comes to
the pixel, and the destination sample that the pixel leaves in memory. -/

namespace Sys2Proof.Machine

open Sys2Proof.Claims

/-! ### The steps before and after a pixel (46_engine R320, R321) -/

/-- A routine without the accumulator runs every row left to right (46_engine R321). -/
theorem columnOrder_leftToRight {r : Routine} (hr : usesAccumulator r = false) (w y : Nat) :
    columnOrder r w y = List.range w := by
  simp [columnOrder, hr]

/-- The steps of such a job before pixel (x, y): the rows above, the row's start and its pixels to the left. -/
def stepsBefore (r : Routine) (w x y : Nat) : List JobStep :=
  jobSteps r w y ++ .rowStart y :: (List.range x).map fun i => .pixel i y

/-- The steps of such a job after pixel (x, y): the row's pixels to the right, its end and the rows below. -/
def stepsAfter (r : Routine) (w h x y : Nat) : List JobStep :=
  (List.range' (x + 1) (w - (x + 1))).map (fun i => .pixel i y) ++
    .rowEnd y :: (List.range' (y + 1) (h - (y + 1))).flatMap (rowSteps r w)

/-- The numbers below n, cut at one of them. -/
theorem range_eq_append_cons {k n : Nat} (h : k < n) :
    List.range n = List.range k ++ k :: List.range' (k + 1) (n - (k + 1)) := by
  rw [List.range_eq_range', List.range_eq_range', ← List.range'_succ, Nat.sub_add_eq, Nat.sub_add_cancel (by omega)]
  have := List.range'_append_1 (s := 0) (m := k) (n := n - k)
  rw [Nat.zero_add, Nat.add_sub_cancel' h.le] at this
  exact this.symm

/-- A job is what comes before a pixel, the pixel, and what comes after it. -/
theorem jobSteps_eq_append_cons {r : Routine} (hr : usesAccumulator r = false) {w h x y : Nat} (hx : x < w) (hy : y < h) :
    jobSteps r w h = stepsBefore r w x y ++ .pixel x y :: stepsAfter r w h x y := by
  rw [jobSteps, range_eq_append_cons hy, List.flatMap_append, List.flatMap_cons, rowSteps, columnOrder_leftToRight hr,
    range_eq_append_cons hx]
  simp [stepsBefore, stepsAfter, jobSteps]

/-- The pixels after pixel (x, y) are further right in its row, or in rows below. -/
theorem pixel_of_mem_stepsAfter {r : Routine} {w h x y x' y' : Nat} (hm : .pixel x' y' ∈ stepsAfter r w h x y) :
    (y' = y ∧ x < x' ∧ x' < w) ∨ (y < y' ∧ y' < h ∧ x' < w) := by
  simp only [stepsAfter, List.mem_append, List.mem_map, List.mem_range'_1, JobStep.pixel.injEq, List.mem_cons, reduceCtorEq,
    List.mem_flatMap, rowSteps, List.not_mem_nil, or_false, false_or, mem_columnOrder] at hm
  rcases hm with ⟨i, hi, rfl, rfl⟩ | ⟨i, hi, c, hc, rfl, rfl⟩ <;> omega

/-! ### Steps that go on, taken apart -/

/-- Steps put end to end go on by way of a run between them. -/
theorem runSteps_append_ok {s : State} {l l' : List JobStep} {r r' : Run} (h : runSteps s (l ++ l') r = .ok r') :
    ∃ q, runSteps s l r = .ok q ∧ runSteps s l' q = .ok r' := by
  rw [runSteps_append] at h
  split at h
  · next q hq => exact ⟨q, hq, h⟩
  · cases h

/-- A step and the steps after it go on by way of a run between them. -/
theorem runSteps_cons_ok {s : State} {m : JobStep} {t : List JobStep} {r r' : Run} (h : runSteps s (m :: t) r = .ok r') :
    ∃ q, jobStep s m r = .ok q ∧ runSteps s t q = .ok r' := by
  rw [runSteps] at h
  split at h
  · next q hq => exact ⟨q, hq, h⟩
  · cases h

/-! ### The working state of such a job (46_engine R317, 41_noise R170, 43_quasirandom R213) -/

/-- The noise state before a pixel of the row is a draw on from the pixel before. -/
theorem streamAt_succ_column (act : ActiveConfig) (j : JobLatch) (x y : Nat) :
    streamAt act j (x + 1) y = (ngDraw (streamAt act j x y) act.tpdfNoise).1 :=
  Function.iterate_succ_apply' ..

/-- The noise state at the start of a row is `eol` of the one after the row above. -/
theorem streamAt_succ_row (act : ActiveConfig) (j : JobLatch) (y : Nat) :
    streamAt act j 0 (y + 1) = ngEol (streamAt act j j.width y) :=
  Function.iterate_succ_apply' ..

/-- The counter before pixel (x, y): the row's seed, x pixel steps on (43_quasirandom R213). -/
def counterAt (act : ActiveConfig) (j : JobLatch) (x y : Nat) : Word :=
  qgSeed y j.frame j.plane act.dyn act.corr + BitVec.ofNat 32 x * qgA1

/-- A row's counter starts at its seed. -/
theorem counterAt_zero (act : ActiveConfig) (j : JobLatch) (y : Nat) :
    counterAt act j 0 y = qgSeed y j.frame j.plane act.dyn act.corr := by
  simp [counterAt]

/-- Each pixel advances the counter by the pixel step. -/
theorem counterAt_succ (act : ActiveConfig) (j : JobLatch) (x y : Nat) :
    counterAt act j (x + 1) y = counterAt act j x y + qgA1 := by
  have hone : BitVec.ofNat 32 1 * qgA1 = qgA1 := by decide
  rw [counterAt, BitVec.ofNat_add, BitVec.add_mul, hone, ← BitVec.add_assoc, ← counterAt]

/-- The working state of job `j` with the noise state of (x, y): x = 0 is the row's start, x = WIDTH its end. -/
structure WorkAt (act : ActiveConfig) (j : JobLatch) (x y : Nat) (w : Work) : Prop where
  job : w.j = j
  gain : w.g = jobGain act j
  offset : w.o = jobOffset act j
  rotation : w.rot = if act.dyn = true then j.frame.toNat % 4 else 0
  noise : drawsNoise act.routine = true → w.ns = streamAt act j x y

/-- The working state inside a row, where a QRS job also has its counter. -/
structure WorkInRow (act : ActiveConfig) (j : JobLatch) (x y : Nat) (w : Work) : Prop extends WorkAt act j x y w where
  counter : act.routine = .qrs → w.qc = counterAt act j x y

/-- A job starts at its first row. -/
theorem jobSetup_workAt (s : State) (j : JobLatch) : WorkAt s.act j 0 0 (jobSetup s j).work where
  job := rfl
  gain := rfl
  offset := rfl
  rotation := rfl
  noise := fun h => if_pos h

/-- A row's start seeds the counter. -/
theorem WorkAt.rowStart {s : State} {j : JobLatch} {y : Nat} {r : Run} (h : WorkAt s.act j 0 y r.work) :
    WorkInRow s.act j 0 y (rowStartStep s y r).work where
  job := h.job
  gain := h.gain
  offset := h.offset
  rotation := h.rotation
  noise := h.noise
  counter := fun hqrs => by simp only [rowStartStep, qcAtRowStart, hqrs, h.job, counterAt_zero]

/-- A pixel of QRS advances the counter (46_engine R326). -/
theorem pixelValue_qc {s : State} (h : s.act.routine = .qrs) (x y raw : Nat) (r : Run) :
    (pixelValue s x y raw r).2.work.qc = r.work.qc + qgA1 := by
  simp only [pixelValue, h, qrsPixel]

/-- A pixel hands the noise state and the counter on to the next one. -/
theorem WorkInRow.pixel {s : State} {j : JobLatch} {x y : Nat} {r r' : Run} (h : WorkInRow s.act j x y r.work)
    (hstep : jobStep s (.pixel x y) r = .ok r') : WorkInRow s.act j (x + 1) y r'.work := by
  obtain ⟨hj, hg, ho, hrot⟩ := jobStep_constants hstep
  obtain ⟨f, g, -, -, rfl⟩ := pixelStep_ok hstep
  refine ⟨⟨hj.trans h.job, hg.trans h.gain, ho.trans h.offset, hrot.trans h.rotation, fun hn => ?_⟩, fun hqrs => ?_⟩
  · rw [streamAt_succ_column, ← h.noise hn]
    exact (pixelValue_ns ..).trans (if_pos hn)
  · rw [counterAt_succ, ← h.counter hqrs]
    exact pixelValue_qc hqrs ..

/-- A row's end takes `eol` of the noise state. -/
theorem WorkAt.rowEnd {s : State} {j : JobLatch} {y : Nat} {r : Run} (h : WorkAt s.act j j.width y r.work) :
    WorkAt s.act j 0 (y + 1) (rowEndStep s y r).work where
  job := h.job
  gain := h.gain
  offset := h.offset
  rotation := h.rotation
  noise := fun hn => by rw [streamAt_succ_row, ← h.noise hn]; exact if_pos hn

/-- The first x pixels of a row. -/
theorem WorkInRow.pixels {s : State} {j : JobLatch} {x y : Nat} {r r' : Run} (h : WorkInRow s.act j 0 y r.work)
    (hrun : runSteps s ((List.range x).map fun i => .pixel i y) r = .ok r') : WorkInRow s.act j x y r'.work := by
  induction x generalizing r' with
  | zero => cases hrun; exact h
  | succ x ih =>
    rw [List.range_succ, List.map_append] at hrun
    obtain ⟨q, hq, hlast⟩ := runSteps_append_ok hrun
    obtain ⟨q', hstep, hnil⟩ := runSteps_cons_ok hlast
    cases hnil
    exact (ih hq).pixel hstep

section

variable {s : State} {j : JobLatch} (hacc : usesAccumulator s.act.routine = false)
include hacc

/-- A whole row, from its start to the next one's. -/
theorem WorkAt.row {y : Nat} {r r' : Run} (h : WorkAt s.act j 0 y r.work)
    (hrun : runSteps s (rowSteps s.act.routine j.width y) r = .ok r') : WorkAt s.act j 0 (y + 1) r'.work := by
  rw [rowSteps, columnOrder_leftToRight hacc] at hrun
  obtain ⟨q, hstart, hrest⟩ := runSteps_cons_ok hrun
  cases hstart
  obtain ⟨q, hpixels, hend⟩ := runSteps_append_ok hrest
  cases hend
  exact (h.rowStart.pixels hpixels).toWorkAt.rowEnd

/-- The first y rows of a job. -/
theorem runSteps_rows_workAt {y : Nat} {r : Run}
    (hrun : runSteps s (jobSteps s.act.routine j.width y) (jobSetup s j) = .ok r) : WorkAt s.act j 0 y r.work := by
  induction y generalizing r with
  | zero => cases hrun; exact jobSetup_workAt s j
  | succ y ih =>
    rw [jobSteps, List.range_succ, List.flatMap_append, List.flatMap_singleton] at hrun
    obtain ⟨q, hrows, hrow⟩ := runSteps_append_ok hrun
    exact (ih hrows).row hacc hrow

/-- The working state with which a job comes to pixel (x, y). -/
theorem runSteps_stepsBefore_workInRow {x y : Nat} {r : Run}
    (hrun : runSteps s (stepsBefore s.act.routine j.width x y) (jobSetup s j) = .ok r) :
    WorkInRow s.act j x y r.work := by
  obtain ⟨q, hrows, hrest⟩ := runSteps_append_ok hrun
  obtain ⟨q', hstart, hpixels⟩ := runSteps_cons_ok hrest
  cases hstart
  exact (runSteps_rows_workAt hacc hrows).rowStart.pixels hpixels

end

/-! ### The samples a job reads and writes (20_memory R85, R95) -/

/-- Samples of one row share no byte, as a row is shorter than the address space. -/
theorem spansApart_of_row {p : Plane} (hrow : p.width * p.size ≤ 2 ^ 32) {x x' : Nat} (y : Nat) (hx : x < x')
    (hx' : x' < p.width) : SpansApart p.size (p.addr x y) (p.addr x' y) := by
  rintro c ⟨h, h'⟩
  obtain ⟨i, hi, rfl⟩ := (inSpan_toNat_iff _ _ _).1 h
  obtain ⟨i', hi', he⟩ := (inSpan_toNat_iff _ _ _).1 h'
  rw [addr_eq_add p x, addr_eq_add p x', add_assoc, add_assoc, add_right_inj, ← BitVec.ofNat_add, ← BitVec.ofNat_add] at he
  have hnext : x * p.size + p.size ≤ x' * p.size := by nlinarith
  have hlast : x' * p.size + p.size ≤ p.width * p.size := by nlinarith
  have hnum := congrArg BitVec.toNat he
  rw [BitVec.toNat_ofNat, BitVec.toNat_ofNat, Nat.mod_eq_of_lt (by omega), Nat.mod_eq_of_lt (by omega)] at hnum
  omega

/-- Where no later row writes a sample, no later pixel does. -/
theorem spansApart_of_mem_stepsAfter {p : Plane} (hrow : p.width * p.size ≤ 2 ^ 32) {r : Routine} {x y x' y' : Nat}
    (hlast : LastWritten p x y) (hm : .pixel x' y' ∈ stepsAfter r p.width p.height x y) :
    SpansApart p.size (p.addr x y) (p.addr x' y') := by
  rcases pixel_of_mem_stepsAfter hm with ⟨rfl, hright, hx'⟩ | ⟨hbelow, hy', hx'⟩
  · exact spansApart_of_row hrow _ hright hx'
  · exact hlast x' y' hx' hbelow hy'

/-- A row of an accepted job's destination is shorter than the address space. -/
theorem destRow_lt_of_accepted {s : State} {j : JobLatch} (h : JobAccepted s j) :
    (destPlane s.act j).width * (destPlane s.act j).size < 2 ^ 32 := by
  have hsize := containerSize_le s.act.dst
  have hwidth := width_of_accepted h
  simp only [destPlane]
  nlinarith

/-- Steps whose pixels write apart from a sample leave it. -/
theorem runSteps_sample_kept {s : State} {j : JobLatch} {a : Word} {steps : List JobStep} {r r' : Run}
    (hj : r.work.j = j)
    (hap : ∀ x y, .pixel x y ∈ steps → SpansApart (containerSize s.act.dst) a ((destPlane s.act j).addr x y))
    (h : runSteps s steps r = .ok r') :
    memRead r'.mem a (containerSize s.act.dst) = memRead r.mem a (containerSize s.act.dst) := by
  refine memRead_congr fun i hi => ?_
  refine (runSteps_induct (P := fun q => q.work.j = j ∧
    memByte q.mem (a + BitVec.ofNat 32 i) = memByte r.mem (a + BitVec.ofNat 32 i)) ?_ ⟨hj, rfl⟩ h).2
  rintro m hm q q' ⟨hq, hbyte⟩ hstep
  refine ⟨(jobStep_constants hstep).1.trans hq, (jobStep_outside hstep _ ?_).trans hbyte⟩
  rintro x y rfl
  rw [hq]
  exact (hap x y hm).outside hi

/-- Steps of a job whose planes share no byte leave its source samples. -/
theorem runSteps_source_kept {s : State} {j : JobLatch} {steps : List JobStep} {r r' : Run} (hj : r.work.j = j)
    (hin : ∀ x y, .pixel x y ∈ steps → x < j.width ∧ y < j.height) (hw : j.width < 65536)
    (hsep : ¬ SharesByte (sourcePlane s.act j) (destPlane s.act j)) (h : runSteps s steps r = .ok r') {x y : Nat}
    (hx : x < j.width) (hy : y < j.height) :
    memRead r'.mem ((sourcePlane s.act j).addr x y) (containerSize s.act.src) =
      memRead r.mem ((sourcePlane s.act j).addr x y) (containerSize s.act.src) := by
  refine memRead_congr fun i hi => runSteps_outside hj hin hw ?_ h
  have hsrc := (holds_iff_sample (sourcePlane s.act j) _).2 ⟨x, hx, y, hy, i, hi, rfl⟩
  rw [Bool.eq_false_iff]
  exact fun hdst => hsep ⟨_, hsrc, hdst⟩

/-- Only a COPY may have planes that share a byte (20_memory R95). -/
theorem not_sharesByte_of_accepted {s : State} {j : JobLatch} (h : JobAccepted s j) (hr : s.act.routine ≠ .copy) :
    ¬ SharesByte (sourcePlane s.act j) (destPlane s.act j) := by
  obtain ⟨-, hshare, -⟩ := h
  exact fun hs => hr (hshare hs).1

/-! ### The sample a pixel leaves -/

/-- A pixel leaves the low bits of its value in its destination sample (20_memory R83). -/
theorem pixelStep_sample {s : State} {x y : Nat} {r r' : Run} (hm : Memory.wf r.mem = true)
    (h : jobStep s (.pixel x y) r = .ok r') :
    ∃ f, memRead r'.mem ((destPlane s.act r.work.j).addr x y) (containerSize s.act.dst) =
      (pixelResult s x y f r).1 % 2 ^ (8 * containerSize s.act.dst) := by
  obtain ⟨f, g, -, -, rfl⟩ := pixelStep_ok h
  have hsize : containerSize s.act.dst ≤ 2 ^ 32 := (containerSize_le _).trans (by decide)
  exact ⟨f, memRead_memWrite hm _ hsize _⟩

/-- A job with disjoint planes and rows from left to right that no access fails leaves, in each sample that no later row
writes, the low bits of the pixel's value, computed from the source sample that the job found and from the working state
of its pixel. -/
theorem destSample_of_job {s t : State} {j : JobLatch} (hj : JobAccepted s j) (hf : s.busFail = [])
    (hm : Memory.wf s.mem = true) (hacc : usesAccumulator s.act.routine = false)
    (hsep : ¬ SharesByte (sourcePlane s.act j) (destPlane s.act j)) (ht : exec .processPlane s = .next t) {x y : Nat}
    (hx : x < j.width) (hy : y < j.height) (hlast : LastWritten (destPlane s.act j) x y) :
    ∃ r : Run, WorkInRow s.act j x y r.work ∧ destSample s t j x y =
      (pixelValue s x y (sourceSample s j x y) r).1 % 2 ^ (8 * containerSize s.act.dst) := by
  obtain ⟨r, hr, -, he⟩ := exec_of_accepted_noFail hj hf
  cases he.symm.trans ht
  have hsteps := jobSteps_eq_append_cons hacc hx hy
  rw [runJob, hsteps] at hr
  obtain ⟨q, hbefore, hrest⟩ := runSteps_append_ok hr
  obtain ⟨q', hpixel, hafter⟩ := runSteps_cons_ok hrest
  have hwork := runSteps_stepsBefore_workInRow hacc hbefore
  have hsource := runSteps_source_kept (r := jobSetup s j) rfl
    (fun x' y' hmem => pixel_of_mem_jobSteps (hsteps ▸ List.mem_append_left _ hmem)) (width_of_accepted hj) hsep hbefore
    hx hy
  obtain ⟨f, hwritten⟩ := pixelStep_sample (runSteps_memWf (r := jobSetup s j) hm hbefore) hpixel
  have hkept := runSteps_sample_kept ((jobStep_constants hpixel).1.trans hwork.job)
    (fun x' y' hmem => spansApart_of_mem_stepsAfter (destRow_lt_of_accepted hj).le hlast hmem) hafter
  refine ⟨pixelRun x y f q,
    ⟨⟨hwork.job, hwork.gain, hwork.offset, hwork.rotation, hwork.noise⟩, hwork.counter⟩, ?_⟩
  rw [hwork.job, pixelResult, hwork.job] at hwritten
  rw [destSample, succeed_mem, finishJob_mem, hkept, hwritten]
  exact congrArg (fun raw => (pixelValue s x y raw (pixelRun x y f q)).1 % 2 ^ (8 * containerSize s.act.dst)) hsource

/-! ### Quantized samples (45_scale R291) -/

/-- A legal format's values fit its container (20_memory R84). -/
theorem bits_le_container {f : Format} (h : formatLegal f = true) : f.bits ≤ 8 * containerSize f := by
  cases hf : f.float with
  | true =>
    have hbits : f.bits = 32 := by simpa [formatLegal, hf] using h
    rw [containerSize_float hf, hbits]
  | false =>
    have hdepth : f.bits ∈ Config.integerDepths := by simpa [formatLegal, hf] using h
    have hmax : ∀ b ∈ Config.integerDepths, b ≤ 16 := by decide
    have := hmax _ hdepth
    simp only [containerSize, hf, Bool.false_eq_true, if_false]
    split <;> omega

/-- The quantizer's output is a value of its depth. -/
theorem quantize_bounds (t : Int) (b : Nat) : 0 ≤ (quantize t b).1 ∧ (quantize t b).1 ≤ 2 ^ b - 1 :=
  clamp_bounds _ (Int.le_sub_one_of_lt (by positivity))

/-- A container of a legal format holds the quantizer's output. -/
theorem quantize_mod_container {f : Format} (h : formatLegal f = true) (t : Int) :
    (((quantize t f.bits).1.toNat % 2 ^ (8 * containerSize f) : Nat) : Int) = (quantize t f.bits).1 := by
  obtain ⟨hlo, hhi⟩ := quantize_bounds t f.bits
  have hfits : 2 ^ f.bits ≤ 2 ^ (8 * containerSize f) := Nat.pow_le_pow_right two_pos (bits_le_container h)
  have hlt : (quantize t f.bits).1.toNat < 2 ^ f.bits := by
    zify
    rw [Int.toNat_of_nonneg hlo]
    omega
  rw [Nat.mod_eq_of_lt (hlt.trans_le hfits), Int.toNat_of_nonneg hlo]

end Sys2Proof.Machine

end

section
/-! SUPPORT. The pixels of a QRS job by the counter and the noise state of their places. -/

namespace Sys2Proof.Machine

open Sys2Proof.Claims

/-! ### The pixels of QRS (46_engine R326, 43_quasirandom R213) -/

/-- The doubling under TPDF_OUT as a factor. -/
theorem qgPixelValue_eq (act : ActiveConfig) (c : Word) :
    qgPixelValue act c = (if act.tpdfOut = true then 2 else 1) * qgValue c := by
  unfold qgPixelValue
  split
  · rfl
  · exact (Int.one_mul _).symm

/-- The value of a QRS pixel, by the working state with which the job comes to it. -/
theorem pixelValue_qrs {s : State} {j : JobLatch} {x y : Nat} {r : Run} (hqrs : s.act.routine = .qrs)
    (hr : WorkInRow s.act j x y r.work) (raw : Nat) :
    (pixelValue s x y raw r).1 = (quantize (workOf s.act.src raw (jobGain s.act j) (jobOffset s.act j) +
      (if s.act.tpdfOut = true then 2 else 1) * qgValue (counterAt s.act j x y) * s.act.ampo +
        noiseTerm s.act j x y) s.act.dst.bits).1.toNat := by
  have hnoise := hr.noise (by rw [hqrs]; rfl)
  simp only [pixelValue, hqrs, qrsPixel, drawNoise, qgPixelValue_eq, hr.gain, hr.offset, hr.counter hqrs, hnoise, noiseTerm]

end Sys2Proof.Machine

open Sys2Proof Sys2Proof.Machine Sys2Proof.Claims

/-- Settles O54: a QRS job's rows run left to right and its planes are disjoint, so that each sample is the value of its
pixel at the counter and the noise state of the pixel's place in the row. -/
theorem quasirandomJobDithersSamples : Obligations.QuasirandomJobDithersSamples := by
  intro s t j hj hf hm hconfig hqrs ht x hx y hy hlast
  obtain ⟨-, hdst, -⟩ := hconfig
  have hsep := not_sharesByte_of_accepted hj (by simp [hqrs])
  obtain ⟨r, hr, hsample⟩ := destSample_of_job hj hf hm (by rw [hqrs]; rfl) hsep ht hx hy hlast
  rw [hsample, pixelValue_qrs hqrs hr, quantize_mod_container hdst]
  rfl

end

section
/-! SUPPORT. What a split gives: the whole error, or Atkinson's part of it, in amounts that lie between the error and 0 but for
the roundings; and how the slot registers show them. -/

namespace Sys2Proof.Machine

open Sys2Proof.Claims

/-! ### Conservation (44_error_diffusion R244) -/

/-- A kernel whose forward slot takes what the others leave sends the whole error: all but Atkinson. -/
theorem splitError_sum {k : Kernel} (hk : k ≠ .atkinson) (entry : OstroEntry) (e : Int) :
    (splitError k entry e).sum = e := by
  cases k with
  | atkinson => exact absurd rfl hk
  | floydSteinberg | filterLite | stucki | ostromoukhov =>
    simp only [splitError, List.sum_cons, List.sum_nil]
    ring

/-- Atkinson sends six eighths, each rounded. -/
theorem atkinson_sum (entry : OstroEntry) (e : Int) : (splitError .atkinson entry e).sum = 6 * rnd e 8 := by
  simp only [splitError, atDivisor, List.sum_cons, List.sum_nil]
  ring

/-- Atkinson keeps back a quarter of the error, but for six roundings of at most a half each. -/
theorem atkinson_discard_bounds (entry : OstroEntry) (e : Int) :
    |4 * splitDiscard e (splitError .atkinson entry e) - e| ≤ 12 := by
  have hround := rnd_bounds e (d := 8) (by decide)
  rw [splitDiscard, atkinson_sum, abs_le]
  omega

/-- A multiple of 8 has exact eighths. -/
theorem atkinson_discard_of_dvd (entry : OstroEntry) {e : Int} (h : 8 ∣ e) :
    4 * splitDiscard e (splitError .atkinson entry e) = e := by
  have hround := rnd_bounds e (d := 8) (by decide)
  rw [splitDiscard, atkinson_sum]
  omega

/-! ### The sign of an amount (44_error_diffusion R246) -/

/-- `a` lies between the error and 0, but for at most 6: eleven roundings of a half move Stucki's forward amount that far. -/
def BetweenErrorAndZero (e a : Int) : Prop := min e (-6) ≤ a ∧ a ≤ max e 6

/-- A share w/t of the error, w ≤ t, rounded, lies between the error and 0: these are integers. -/
theorem rnd_share_mem {w t : Nat} (h : w ≤ t) (e : Int) : min e 0 ≤ rnd (w * e) t ∧ rnd (w * e) t ≤ max e 0 := by
  rcases Nat.eq_zero_or_pos t with rfl | ht
  · simp [rnd]
  obtain ⟨hlo, hhi⟩ := rnd_bounds (w * e) ht
  have hw : (0 : Int) ≤ w := Int.natCast_nonneg w
  have hwt : (w : Int) ≤ t := by exact_mod_cast h
  have ht' : (0 : Int) < t := by exact_mod_cast ht
  rcases le_total 0 e with he | he
  · rw [min_eq_right he, max_eq_left he]
    constructor <;> by_contra hc <;> nlinarith
  · rw [min_eq_left he, max_eq_right he]
    constructor <;> by_contra hc <;> nlinarith

/-- So the rounded share is within the slack too. -/
theorem rnd_share_between {w t : Nat} (h : w ≤ t) (e : Int) : BetweenErrorAndZero e (rnd (w * e) t) := by
  have := rnd_share_mem h e
  unfold BetweenErrorAndZero
  omega

/-- What two shares leave of the error lies between it and 0, but for one. -/
theorem rnd_rest_between {c1 c2 t : Nat} (h : c1 + c2 ≤ t) (e : Int) :
    BetweenErrorAndZero e (e - rnd (c1 * e) t - rnd (c2 * e) t) := by
  rcases Nat.eq_zero_or_pos t with rfl | ht
  · simp only [rnd, BetweenErrorAndZero]
    omega
  obtain ⟨hlo1, hhi1⟩ := rnd_bounds (c1 * e) ht
  obtain ⟨hlo2, hhi2⟩ := rnd_bounds (c2 * e) ht
  have hshare1 := rnd_share_mem (w := c1) (t := t) (by omega) e
  have hshare2 := rnd_share_mem (w := c2) (t := t) (by omega) e
  have hsum : (c1 : Int) + c2 ≤ t := by exact_mod_cast h
  have ht' : (0 : Int) < t := by exact_mod_cast ht
  have hnear : min e 0 - 1 ≤ e - rnd (c1 * e) t - rnd (c2 * e) t ∧
      e - rnd (c1 * e) t - rnd (c2 * e) t ≤ max e 0 + 1 := by
    rcases le_total 0 e with he | he
    · rw [min_eq_right he, max_eq_left he]
      constructor <;> by_contra hc <;> nlinarith
    · rw [min_eq_left he, max_eq_right he]
      constructor <;> by_contra hc <;> nlinarith
  unfold BetweenErrorAndZero
  omega

/-- Stucki's forward amount is 8/42 of the error, but for the eleven roundings. -/
theorem stucki_forward_between (e : Int) :
    BetweenErrorAndZero e (e - (stuckiWeights.map fun w => rnd (w * e) stuckiDivisor).sum) := by
  have h1 := rnd_bounds (1 * e) (d := 42) (by decide)
  have h2 := rnd_bounds (2 * e) (d := 42) (by decide)
  have h4 := rnd_bounds (4 * e) (d := 42) (by decide)
  have h8 := rnd_bounds (8 * e) (d := 42) (by decide)
  simp only [stuckiWeights, stuckiDivisor, List.map_cons, List.map_nil, List.sum_cons, List.sum_nil, BetweenErrorAndZero]
  omega

/-- The amounts of a split are rounded shares of the error (0 is the share of weight 0), what two shares leave of it, or
Stucki's forward amount. -/
theorem splitError_forall {P : Int → Prop} {e : Int} (hshare : ∀ w t : Nat, w ≤ t → P (rnd (w * e) t))
    (hrest : ∀ c1 c2 t : Nat, c1 + c2 ≤ t → P (e - rnd (c1 * e) t - rnd (c2 * e) t))
    (hstucki : P (e - (stuckiWeights.map fun w => rnd (w * e) stuckiDivisor).sum)) (k : Kernel) (entry : OstroEntry) :
    ∀ a ∈ splitError k entry e, P a := by
  have hzero : P 0 := by simpa [rnd] using hshare 0 0 le_rfl
  have hthree : ∀ c1 c2 t : Nat, c1 + c2 ≤ t → ∀ a ∈ [e - rnd (c1 * e) t - rnd (c2 * e) t, 0, 0, rnd (c1 * e) t,
      rnd (c2 * e) t, 0, 0, 0, 0, 0, 0, 0], P a := by
    intro c1 c2 t h
    simp only [List.forall_mem_cons]
    exact ⟨hrest c1 c2 t h, hzero, hzero, hshare c1 t (by omega), hshare c2 t (by omega), hzero, hzero, hzero, hzero,
      hzero, hzero, hzero, List.forall_mem_nil _⟩
  cases k with
  | floydSteinberg => exact hthree 4 5 16 (by decide)
  | filterLite =>
    have h := hthree 1 1 4 (by decide)
    rwa [show ((1 : Nat) : Int) * e = e by simp, sub_sub, ← two_mul] at h
  | stucki =>
    refine List.forall_mem_cons.2 ⟨hstucki, List.forall_mem_map.2 ?_⟩
    have hweights : ∀ w ∈ stuckiWeights, 0 ≤ w ∧ w ≤ 42 := by decide
    intro w hw
    obtain ⟨hlo, hhi⟩ := hweights w hw
    rw [← Int.toNat_of_nonneg hlo]
    exact hshare w.toNat 42 (by omega)
  | atkinson =>
    have h8 : P (rnd e 8) := by simpa using hshare 1 8 (by decide)
    simp only [splitError, atDivisor, List.forall_mem_cons]
    exact ⟨h8, h8, hzero, h8, h8, h8, hzero, hzero, hzero, h8, hzero, hzero, List.forall_mem_nil _⟩
  | ostromoukhov =>
    exact hthree entry.c1.toNat entry.c2.toNat entry.total (by unfold OstroEntry.total; omega)

/-- Every amount of every kernel lies between the error and 0 within that slack (44_error_diffusion R246). -/
theorem splitError_between (k : Kernel) (entry : OstroEntry) (e : Int) :
    ∀ a ∈ splitError k entry e, BetweenErrorAndZero e a :=
  splitError_forall (fun _ _ h => rnd_share_between h e) (fun _ _ _ h => rnd_rest_between h e) (stucki_forward_between e) k
    entry

/-! ### The slot registers (10_state R50) -/

/-- A number of the signed 32-bit range is shown exactly. -/
theorem toInt_ofInt_word {v : Int} (hlo : -2 ^ 31 ≤ v) (hhi : v < 2 ^ 31) : (BitVec.ofInt 32 v).toInt = v :=
  BitVec.toInt_ofInt_eq_self (by decide) hlo hhi

/-- Between a 32-bit error and 0 there are 32-bit amounts, the slack of 6 included. -/
theorem toInt_ofInt_between (e : Word) {a : Int} (h : BetweenErrorAndZero e.toInt a) : (BitVec.ofInt 32 a).toInt = a := by
  have hlo := e.le_toInt
  have hhi := e.toInt_lt
  unfold BetweenErrorAndZero at h
  exact toInt_ofInt_word (by omega) (by omega)

/-- The slot registers show the amounts of any 32-bit error (44_error_diffusion R246). -/
theorem slotRegs_toInt (k : Kernel) (entry : OstroEntry) (e : Word) (n : Fin 12) :
    ((slotRegs (splitError k entry e.toInt))[n]).toInt = (splitError k entry e.toInt).getD n.val 0 := by
  have hn : n.val < (splitError k entry e.toInt).length := by rw [splitError_length]; exact n.isLt
  rw [slotRegs, Fin.getElem_fin, Vector.getElem_ofFn]
  refine toInt_ofInt_between e (splitError_between k entry _ _ ?_)
  rw [List.getD_eq_getElem _ _ hn]
  exact List.getElem_mem hn

/-- The discard register shows what no slot received (44_error_diffusion R246). -/
theorem discard_toInt (k : Kernel) (entry : OstroEntry) (e : Word) :
    (BitVec.ofInt 32 (splitDiscard e.toInt (splitError k entry e.toInt))).toInt =
      e.toInt - (splitError k entry e.toInt).sum := by
  have hlo := e.le_toInt
  have hhi := e.toInt_lt
  by_cases hk : k = .atkinson
  · subst hk
    have hdiscard := abs_le.1 (atkinson_discard_bounds entry e.toInt)
    exact toInt_ofInt_word (by omega) (by omega)
  · rw [splitDiscard, splitError_sum hk, sub_self]
    rfl

end Sys2Proof.Machine

open Sys2Proof Sys2Proof.Machine Sys2Proof.Claims

/-- Settles O33: the forward slot takes what the others leave, except for Atkinson, whose shortfall is what its six roundings
leave. -/
theorem splitsConserveTheError : Obligations.SplitsConserveTheError := by
  intro entry e
  have hnearest : ⌊(e : ℚ) / 8 + 1 / 2⌋ = rnd e 8 := nearest_eq_rnd e 8
  rw [hnearest]
  exact ⟨splitError_sum (by decide) entry e, splitError_sum (by decide) entry e, splitError_sum (by decide) entry e,
    splitError_sum (by decide) entry e, atkinson_sum entry e, atkinson_discard_bounds entry e,
    atkinson_discard_of_dvd entry⟩

/-- Settles O32: the three cases of the command, the amounts and the discard being 32-bit values. -/
theorem edSplitShowsTheExactSplit : Obligations.EdSplitShowsTheExactSplit := by
  intro s idx _
  rw [exec_edSplit]
  rcases execEdSplit_cases idx s with ⟨hv, he⟩ | ⟨hv, hr, he⟩ | ⟨k, sl, hv, hr, rfl, he⟩
  · exact ⟨fun _ hv' => absurd (hv.symm.trans hv') (by decide), fun hv' => absurd (hv.symm.trans hv') (by decide),
      fun _ => he⟩
  · exact ⟨fun k _ hk => absurd hk (hr k), fun _ _ => he, fun hv' => absurd (hv.symm.trans hv') (by decide)⟩
  · refine ⟨fun k' _ hk => ?_, fun _ hno => absurd hr (hno k), fun hv' => absurd (hv.symm.trans hv') (by decide)⟩
    cases hr.symm.trans hk
    exact ⟨_, he, fun _ => rfl, rfl, slotRegs_toInt k _ _, discard_toInt k _ _⟩

end

section
/-! SUPPORT. The cells of the accumulator after each of its operations: an addition, a pixel's spread, a row's end. -/

namespace Sys2Proof.Machine

open Sys2Proof.Claims

/-! ### Lines and cells (44_error_diffusion R233, R234) -/

/-- A line replaced reads as its new contents. -/
theorem line_setLine_self (a : Accum) (j : Nat) (l : Line) : (a.setLine j l).line j = l := by
  rcases j with _ | _ | j <;> rfl

/-- Replacing one of the three lines leaves the two others. -/
theorem line_setLine_ne (a : Accum) {i j : Nat} (l : Line) (hi : i < 3) (hj : j < 3) (h : i ≠ j) :
    (a.setLine j l).line i = a.line i := by
  have hall : (a.setLine j l).line i = if i = j then l else a.line i := by
    interval_cases i <;> interval_cases j <;> rfl
  rw [hall, if_neg h]

/-- Replacing a line changes no carry. -/
theorem setLine_carries (a : Accum) (j : Nat) (l : Line) : (a.setLine j l).car0 = a.car0 ∧ (a.setLine j l).car1 = a.car1 := by
  rcases j with _ | _ | j <;> exact ⟨rfl, rfl⟩

/-- A depth of 1 or 2 names lines 0 to 2 only. -/
theorem rowLine_lt {depth : Nat} (h : depth ≤ 2) (r : Nat) : r % (depth + 1) < 3 :=
  (Nat.mod_lt r (Nat.succ_pos depth)).trans_le (by omega)

/-- The row being read and the rows being filled have lines of their own (44_error_diffusion R233). -/
theorem rowLine_injective (y : Nat) {depth d d' : Nat} (hd : d ≤ depth) (hd' : d' ≤ depth)
    (h : (y + d) % (depth + 1) = (y + d') % (depth + 1)) : d = d' :=
  Nat.ModEq.eq_of_lt_of_lt (Nat.ModEq.add_left_cancel' y h) (by omega) (by omega)

/-- Each line is that of one of those rows. -/
theorem exists_rowLine (y r depth : Nat) : ∃ d ≤ depth, r % (depth + 1) = (y + d) % (depth + 1) := by
  obtain ⟨q, hq⟩ : ∃ q, y % (depth + 1) + q = depth + 1 :=
    ⟨depth + 1 - y % (depth + 1), Nat.add_sub_cancel' (Nat.mod_lt y (Nat.succ_pos depth)).le⟩
  refine ⟨(r + q) % (depth + 1), Nat.lt_succ_iff.1 (Nat.mod_lt _ (Nat.succ_pos depth)), ?_⟩
  calc r % (depth + 1) = (r + (depth + 1)) % (depth + 1) := (Nat.add_mod_right ..).symm
    _ = (y % (depth + 1) + (r + q)) % (depth + 1) := by congr 1; omega
    _ = (y + (r + q) % (depth + 1)) % (depth + 1) := by rw [Nat.add_mod_mod, Nat.mod_add_mod]

/-- Columns from −2 on have cells of their own (44_error_diffusion R234). -/
theorem columnKey_injective {c c' : Int} (hc : -2 ≤ c) (hc' : -2 ≤ c') (h : columnKey c = columnKey c') : c = c' := by
  simp only [columnKey, Config.margin] at h
  omega

/-! ### An addition (44_error_diffusion R235) -/

/-- The cell added to holds the sum, as a 32-bit value. -/
theorem accAdd_cell_self {a : Accum} (ha : AccumShaped a) (depth r : Nat) (c v : Int) :
    accCell depth (accAdd depth a r c v) r c = (BitVec.ofInt 32 (accCell depth a r c + v)).toInt := by
  rw [accCell, accAdd, line_setLine_self, cellGet_cellSet_self _ _ (line_wf ha _)]

/-- The cells of other columns and of other lines are as before. -/
theorem accAdd_cell_ne {depth : Nat} (hdepth : depth ≤ 2) (a : Accum) {r r' : Nat} {c c' : Int} (v : Int)
    (h : r' % (depth + 1) = r % (depth + 1) → columnKey c ≠ columnKey c') :
    accCell depth (accAdd depth a r c v) r' c' = accCell depth a r' c' := by
  rw [accCell, accCell, accAdd]
  by_cases hr : r' % (depth + 1) = r % (depth + 1)
  · rw [hr, line_setLine_self, cellGet_cellSet_ne _ _ (h hr).symm]
  · rw [line_setLine_ne _ _ (rowLine_lt hdepth _) (rowLine_lt hdepth _) hr]

/-! ### A pixel's spread (44_error_diffusion R235, R243) -/

/-- The slots are served one after another. -/
theorem accSpread_cons (depth : Nat) (dir : Dir) (x y : Nat) (p : (Int × Nat) × Int) (l : List ((Int × Nat) × Int))
    (a : Accum) : accSpread depth dir x y (p :: l) a = accSpread depth dir x y l (accSpread depth dir x y [p] a) := rfl

/-- A slot of a lower row inside the depth is one addition. -/
theorem accSpread_one {depth : Nat} {p : (Int × Nat) × Int} (h : 1 ≤ p.1.2 ∧ p.1.2 ≤ depth) (dir : Dir) (x y : Nat)
    (a : Accum) : accSpread depth dir x y [p] a = accAdd depth a (y + p.1.2) ((x : Int) + p.1.1 * dirSign dir) p.2 :=
  if_pos h

/-- Any other slot is none. -/
theorem accSpread_none {depth : Nat} {p : (Int × Nat) × Int} (h : ¬ (1 ≤ p.1.2 ∧ p.1.2 ≤ depth)) (dir : Dir)
    (x y : Nat) (a : Accum) : accSpread depth dir x y [p] a = a :=
  if_neg h

/-- Spreading changes no carry. -/
theorem accSpread_carries (depth : Nat) (dir : Dir) (x y : Nat) (l : List ((Int × Nat) × Int)) (a : Accum) :
    (accSpread depth dir x y l a).car0 = a.car0 ∧ (accSpread depth dir x y l a).car1 = a.car1 := by
  induction l generalizing a with
  | nil => exact ⟨rfl, rfl⟩
  | cons p t ih =>
    have hone : (accSpread depth dir x y [p] a).car0 = a.car0 ∧ (accSpread depth dir x y [p] a).car1 = a.car1 := by
      by_cases h : 1 ≤ p.1.2 ∧ p.1.2 ≤ depth
      · rw [accSpread_one h]
        exact setLine_carries ..
      · rw [accSpread_none h]
        exact ⟨rfl, rfl⟩
    rw [accSpread_cons]
    exact ⟨(ih _).1.trans hone.1, (ih _).2.trans hone.2⟩

/-- A cell that no slot lands on is as before. -/
theorem accSpread_cell_of_missed {depth : Nat} (hdepth : depth ≤ 2) (dir : Dir) (x y : Nat) {d : Nat} (hd : d ≤ depth)
    {c : Int} {l : List ((Int × Nat) × Int)} (a : Accum)
    (hmiss : ∀ p ∈ l, 1 ≤ p.1.2 → p.1.2 = d → columnKey ((x : Int) + p.1.1 * dirSign dir) ≠ columnKey c) :
    accCell depth (accSpread depth dir x y l a) (y + d) c = accCell depth a (y + d) c := by
  induction l generalizing a with
  | nil => rfl
  | cons p t ih =>
    rw [accSpread_cons, ih _ fun q hq => hmiss q (List.mem_cons_of_mem _ hq)]
    by_cases h : 1 ≤ p.1.2 ∧ p.1.2 ≤ depth
    · rw [accSpread_one h]
      exact accAdd_cell_ne hdepth a _ fun hline =>
        hmiss p List.mem_cons_self h.1 (rowLine_injective y hd h.2 hline).symm
    · rw [accSpread_none h]

/-- Distinct slots of a row land on distinct columns, in either direction. -/
theorem slotColumn_injective {dir : Dir} {x dx dx' : Int} (h : x + dx * dirSign dir = x + dx' * dirSign dir) : dx = dx' := by
  cases dir <;> simp only [dirSign] at h <;> omega

/-- A slot's landing column is in the line (44_error_diffusion R234). -/
theorem slotColumn_bounds (dir : Dir) (x : Nat) {dx : Int} (h : -2 ≤ dx ∧ dx ≤ 2) :
    (x : Int) - 2 ≤ x + dx * dirSign dir ∧ x + dx * dirSign dir ≤ x + 2 := by
  cases dir <;> simp only [dirSign] <;> omega

/-- The cell a slot of a lower row lands on gains its amount, the slots having distinct places. -/
theorem accSpread_cell_of_mem {depth : Nat} (hdepth : depth ≤ 2) (dir : Dir) {x : Nat} (hx : x < 8192) (y : Nat)
    {l : List ((Int × Nat) × Int)} (hl : ∀ p ∈ l, -2 ≤ p.1.1 ∧ p.1.1 ≤ 2) (hdistinct : (l.map Prod.fst).Nodup)
    {p : (Int × Nat) × Int} (hp : p ∈ l) (hrow : 1 ≤ p.1.2 ∧ p.1.2 ≤ depth) {a : Accum} (ha : AccumShaped a) :
    accCell depth (accSpread depth dir x y l a) (y + p.1.2) (x + p.1.1 * dirSign dir) =
      (BitVec.ofInt 32 (accCell depth a (y + p.1.2) (x + p.1.1 * dirSign dir) + p.2)).toInt := by
  have hapart : ∀ q ∈ l, q.1 ≠ p.1 → q.1.2 = p.1.2 →
      columnKey ((x : Int) + q.1.1 * dirSign dir) ≠ columnKey (x + p.1.1 * dirSign dir) := by
    intro q hq hne hdy hkey
    have hq' := slotColumn_bounds dir x (hl q hq)
    have hp' := slotColumn_bounds dir x (hl p hp)
    exact hne (Prod.ext (slotColumn_injective (columnKey_injective (by omega) (by omega) hkey)) hdy)
  induction l generalizing a with
  | nil => cases hp
  | cons q t ih =>
    obtain ⟨hnotin, hdistinct⟩ := List.nodup_cons.1 hdistinct
    have hq : ∀ u ∈ t, -2 ≤ u.1.1 ∧ u.1.1 ≤ 2 := fun u hu => hl u (List.mem_cons_of_mem _ hu)
    have ht : ∀ u ∈ t, u.1 ≠ q.1 := fun u hu he => hnotin (he ▸ List.mem_map_of_mem hu)
    rw [accSpread_cons]
    rcases List.mem_cons.1 hp with rfl | hpt
    · rw [accSpread_cell_of_missed hdepth dir x y hrow.2 _ fun u hu _ hdy =>
        hapart u (List.mem_cons_of_mem _ hu) (ht u hu) hdy, accSpread_one hrow, accAdd_cell_self ha]
    · have hhead := accSpread_shaped ha depth dir (y := y) hx (l := [q])
        (fun u hu => hl u (List.mem_cons.2 (Or.inl (List.mem_singleton.1 hu))))
      rw [ih hq hdistinct hpt hhead fun u hu => hapart u (List.mem_cons_of_mem _ hu),
        accSpread_cell_of_missed hdepth dir x y hrow.2 a fun u hu _ hdy => ?_]
      obtain rfl := List.mem_singleton.1 hu
      exact hapart u List.mem_cons_self (ht p hpt).symm hdy

/-! ### A pixel's diffusion (44_error_diffusion R243) -/

/-- CAR0 takes CAR1 and the amount of slot (+1, 0). -/
theorem accDiffuse_car0 (depth : Nat) (dir : Dir) (x y : Nat) (sl : List Int) (a : Accum) :
    (accDiffuse depth dir x y sl a).car0 = BitVec.ofInt 32 (a.car1.toInt + sl.getD 0 0) :=
  (accSpread_carries ..).1

/-- CAR1 takes the amount of slot (+2, 0). -/
theorem accDiffuse_car1 (depth : Nat) (dir : Dir) (x y : Nat) (sl : List Int) (a : Accum) :
    (accDiffuse depth dir x y sl a).car1 = BitVec.ofInt 32 (sl.getD 1 0) :=
  (accSpread_carries ..).2

/-- Twelve amounts go to the twelve slots. -/
theorem map_fst_zip_slots {sl : List Int} (h : sl.length = 12) : (slotPositions.zip sl).map Prod.fst = slotPositions :=
  List.map_fst_zip (by rw [h]; decide)

/-- Amount n goes to slot n. -/
theorem slot_mem_zip {sl : List Int} (h : sl.length = 12) {n : Nat} (hn : n < 12) :
    (slotPositions.getD n (0, 0), sl.getD n 0) ∈ slotPositions.zip sl := by
  have hpos : n < slotPositions.length := hn
  have hsl : n < sl.length := by omega
  rw [List.getD_eq_getElem _ _ hpos, List.getD_eq_getElem _ _ hsl, List.mem_iff_getElem]
  exact ⟨n, by rw [List.length_zip]; omega, List.getElem_zip⟩

/-- Row y itself is read, not written. -/
theorem accDiffuse_cell_own {depth : Nat} (hdepth : depth ≤ 2) (dir : Dir) (x y : Nat) (sl : List Int) (a : Accum)
    (c : Int) : accCell depth (accDiffuse depth dir x y sl a) y c = accCell depth a y c :=
  accSpread_cell_of_missed hdepth dir x y (d := 0) (Nat.zero_le _) _ fun _ _ hdy hzero => by omega

/-- Cells further than two columns away are as before. -/
theorem accDiffuse_cell_far {depth : Nat} (hdepth : depth ≤ 2) (dir : Dir) (x y : Nat) {d : Nat} (hd : d ≤ depth)
    (sl : List Int) (a : Accum) {c : Int} (hc : -2 ≤ c) (hfar : c < x - 2 ∨ x + 2 < c) :
    accCell depth (accDiffuse depth dir x y sl a) (y + d) c = accCell depth a (y + d) c := by
  refine accSpread_cell_of_missed hdepth dir x y hd _ fun p hp _ _ hkey => ?_
  have hcol := slotColumn_bounds dir x (slot_dx_bounds hp)
  have := columnKey_injective (by omega) hc hkey
  omega

/-- The cell that a slot of a lower row lands on gains the slot's amount. -/
theorem accDiffuse_cell_of_mem {depth : Nat} (hdepth : depth ≤ 2) (dir : Dir) {x : Nat} (hx : x < 8192) (y : Nat)
    {sl : List Int} (hsl : sl.length = 12) {p : (Int × Nat) × Int} (hp : p ∈ slotPositions.zip sl)
    (hrow : 1 ≤ p.1.2 ∧ p.1.2 ≤ depth) {a : Accum} (ha : AccumShaped a) :
    accCell depth (accDiffuse depth dir x y sl a) (y + p.1.2) (x + p.1.1 * dirSign dir) =
      (BitVec.ofInt 32 (accCell depth a (y + p.1.2) (x + p.1.1 * dirSign dir) + p.2)).toInt :=
  accSpread_cell_of_mem hdepth dir hx y (fun _ h => slot_dx_bounds h) (by rw [map_fst_zip_slots hsl]; decide) hp hrow
    (a := { a with car0 := BitVec.ofInt 32 (a.car1.toInt + sl.getD 0 0), car1 := BitVec.ofInt 32 (sl.getD 1 0) }) ha

/-- Where a slot lands on an even row, and on an odd one (44_error_diffusion R245). -/
theorem slotColumn_rowDir (x y : Nat) (dx : Int) :
    (x : Int) + dx * dirSign (rowDir y) = if y % 2 = 0 then (x : Int) + dx else x - dx := by
  unfold rowDir
  split <;> simp only [dirSign] <;> omega

/-! ### A row's end (44_error_diffusion R236) -/

/-- A kernel reaches one row down, or two (44_error_diffusion R233). -/
theorem kernelDepth_bounds (k : Kernel) : 1 ≤ kernelDepth k ∧ kernelDepth k ≤ 2 := by
  cases k <;> decide

/-- The cells of the finished row's line are 0. -/
theorem accRowEnd_cell_own (k : Kernel) {y r : Nat} (a : Accum) (c : Int)
    (h : r % (kernelDepth k + 1) = y % (kernelDepth k + 1)) : accCell (kernelDepth k) (accRowEnd k y a) r c = 0 := by
  have hline : (accRowEnd k y a).line (y % (kernelDepth k + 1)) = [] := by
    unfold accRowEnd
    split <;> exact line_setLine_self ..
  rw [accCell, h, hline]
  rfl

/-- The cells of the other lines are as before. -/
theorem accRowEnd_cell_other (k : Kernel) {y r : Nat} (a : Accum) (c : Int)
    (h : r % (kernelDepth k + 1) ≠ y % (kernelDepth k + 1)) :
    accCell (kernelDepth k) (accRowEnd k y a) r c = accCell (kernelDepth k) a r c := by
  obtain ⟨-, hdepth⟩ := kernelDepth_bounds k
  have hline : (accRowEnd k y a).line (r % (kernelDepth k + 1)) = a.line (r % (kernelDepth k + 1)) := by
    unfold accRowEnd
    split <;> exact line_setLine_ne _ _ (rowLine_lt hdepth _) (rowLine_lt hdepth _) h
  rw [accCell, accCell, hline]

/-- The rows below keep their cells. -/
theorem accRowEnd_cell_below (k : Kernel) (y : Nat) (a : Accum) {d : Nat} (c : Int) (h1 : 1 ≤ d) (h2 : d ≤ kernelDepth k) :
    accCell (kernelDepth k) (accRowEnd k y a) (y + d) c = accCell (kernelDepth k) a (y + d) c :=
  accRowEnd_cell_other k a c fun h => by
    have := rowLine_injective y (d' := 0) h2 (Nat.zero_le _) h
    omega

/-- The carries after a row's end, by kernel. -/
theorem accRowEnd_carries (k : Kernel) (y : Nat) (a : Accum) :
    (clearsCarries k = true → (accRowEnd k y a).car0 = 0 ∧ (accRowEnd k y a).car1 = 0) ∧
      (clearsCarries k = false → (accRowEnd k y a).car0 = a.car0 ∧ (accRowEnd k y a).car1 = a.car1) := by
  unfold accRowEnd
  cases clearsCarries k with
  | true => exact ⟨fun _ => ⟨rfl, rfl⟩, fun h => nomatch h⟩
  | false => exact ⟨fun h => (nomatch h), fun _ => setLine_carries ..⟩

end Sys2Proof.Machine

open Sys2Proof Sys2Proof.Machine Sys2Proof.Claims

/-- Settles O36: the finished line is also that of the row L + 1 further down, and the rows between have the other lines. -/
theorem rowEndClearsItsLine : Obligations.RowEndClearsItsLine := by
  refine ⟨⟨rfl, rfl, rfl, rfl, rfl⟩, fun k y a => ⟨fun c => ⟨?_, ?_⟩, fun d c h1 h2 => ?_, ?_, ?_⟩⟩
  · exact accRowEnd_cell_own k a c rfl
  · exact accRowEnd_cell_own k a c (by rw [add_assoc, Nat.add_mod_right])
  · exact accRowEnd_cell_below k y a c h1 h2
  · exact fun hk => (accRowEnd_carries k y a).1 (by rcases hk with rfl | rfl | rfl <;> rfl)
  · exact fun hk => (accRowEnd_carries k y a).2 (by rcases hk with rfl | rfl <;> rfl)

/-- Settles O35: the slots with dy = 0 go into the carries, the others each to a cell of its own, mirrored with the row's
direction. -/
theorem amountsLandMirroredOnOddRows : Obligations.AmountsLandMirroredOnOddRows := by
  intro depth x y sl a hdepth hx ha hlen hsl hcell hcar
  have hdepth : depth ≤ 2 := by omega
  have hamount : ∀ n < 12, -2 ^ 30 ≤ sl.getD n 0 ∧ sl.getD n 0 < 2 ^ 30 := by
    intro n hn
    have hmem := slot_mem_zip hlen hn
    exact hsl _ (List.of_mem_zip hmem).2
  refine ⟨?car0, ?car1, ?slot, ?far, fun c => accDiffuse_cell_own hdepth ..⟩
  case car0 =>
    have := hamount 0 (by decide)
    rw [accDiffuse_car0, toInt_ofInt_word (by omega) (by omega)]
  case car1 =>
    have := hamount 1 (by decide)
    rw [accDiffuse_car1, toInt_ofInt_word (by omega) (by omega)]
  case slot =>
    intro n h2 hn dx dy hpos hdy
    have hlower : 1 ≤ dy := by
      have hall : ∀ n < 12, 2 ≤ n → 1 ≤ (slotPositions.getD n (0, 0)).2 := by decide
      simpa only [hpos] using hall n hn h2
    have hmem := slot_mem_zip hlen hn
    rw [hpos] at hmem
    have hland := accDiffuse_cell_of_mem hdepth (rowDir y) hx y hlen hmem ⟨hlower, hdy⟩ ha
    have hv := hamount n hn
    have hc := hcell (y + dy) (x + dx * dirSign (rowDir y))
    rw [← slotColumn_rowDir, hland, toInt_ofInt_word (by simp only; omega) (by simp only; omega)]
  case far =>
    intro dy c _ hdy hc hfar
    exact accDiffuse_cell_far hdepth _ x y hdy sl a hc hfar

end

section
/-! SUPPORT. The bounds of 44_error_diffusion R247: the error a pixel diffuses, and the cells and carries at every point of an
ERRDIF job, by the number of amounts that each cell has received. -/

namespace Sys2Proof.Machine

open Sys2Proof.Claims

/-! ### The error of a pixel (45_scale R291, 44_error_diffusion R231) -/

/-- The quantizer's sum is its quotient and its error (45_scale R291). -/
theorem quantize_eq (t : Int) (b : Nat) :
    ∃ q : Int, t = q * 2 ^ 16 + (quantize t b).2 ∧ (quantize t b).1 = clamp q 0 (2 ^ b - 1) ∧
      -2 ^ 15 ≤ (quantize t b).2 ∧ (quantize t b).2 < 2 ^ 15 := by
  refine ⟨(t + 2 ^ 15) / 2 ^ 16, ?_, rfl, ?_, ?_⟩ <;> simp only [quantize] <;> omega

/-- The error a pixel diffuses is at most 2^23 in magnitude. -/
theorem diffusedError_bounded {e : Int} (hlo : -2 ^ 15 ≤ e) (hhi : e < 2 ^ 15) {ampo : Nat} (ha : ampo ≤ 65535) :
    |nearest (e * ampo) 256| ≤ 2 ^ 23 := by
  have hprod : |e * ampo| ≤ 2 ^ 15 * 65535 := by
    rw [abs_mul, Nat.abs_cast]
    exact mul_le_mul (abs_le.2 ⟨hlo, hhi.le⟩) (by exact_mod_cast ha) (Int.natCast_nonneg _) (by decide)
  have hround := rnd_bounds (e * ampo) (d := 256) (by decide)
  have := abs_le.1 hprod
  rw [nearest_eq_rnd, abs_le]
  omega

/-- Every amount of the split of such an error is, but for 1, as small. -/
theorem slotAmount_bounded {e : Int} (h : |e| ≤ 2 ^ 23) (k : Kernel) (entry : OstroEntry) :
    ∀ v ∈ splitError k entry e, |v| ≤ 2 ^ 23 + 1 :=
  fun v hv => (splitError_bounded k entry e v hv).trans (by omega)

/-! ### How many amounts a cell has received (44_error_diffusion R232, R247) -/

/-- The column at which a row stands after n pixels, with the column past the last one after all of them. -/
def columnAfter (width y n : Nat) : Int := if y % 2 = 0 then n else width - 1 - n

/-- While pixels remain it is the column of the next one. -/
theorem edColumn_eq_columnAfter {width n : Nat} (y : Nat) (h : n < width) :
    (edColumn width y n : Int) = columnAfter width y n := by
  unfold edColumn columnAfter
  split <;> omega

/-- Each pixel moves the row's column on in its direction. -/
theorem columnAfter_succ (width y n : Nat) : columnAfter width y (n + 1) = columnAfter width y n + dirSign (rowDir y) := by
  unfold columnAfter rowDir
  split <;> simp only [dirSign] <;> push_cast <;> ring

/-- The pixels of row y before column x that reach column c of a row below: they are at most two columns away, so at most
five. -/
def receivedBefore (y : Nat) (x c : Int) : Int := max 0 (min 5 ((x - c) * dirSign (rowDir y) + 2))

/-- A cell receives none to five amounts of a row. -/
theorem receivedBefore_bounds (y : Nat) (x c : Int) : 0 ≤ receivedBefore y x c ∧ receivedBefore y x c ≤ 5 := by
  unfold receivedBefore
  omega

/-- Going on, a column has received no less. -/
theorem receivedBefore_mono (y : Nat) (x c : Int) : receivedBefore y x c ≤ receivedBefore y (x + dirSign (rowDir y)) c := by
  unfold receivedBefore
  cases rowDir y <;> simp only [dirSign] <;> omega

/-- A pixel at most two columns away counts. -/
theorem receivedBefore_succ (y : Nat) {x c : Int} (h1 : x - 2 ≤ c) (h2 : c ≤ x + 2) :
    receivedBefore y (x + dirSign (rowDir y)) c = receivedBefore y x c + 1 := by
  unfold receivedBefore
  cases rowDir y <;> simp only [dirSign] <;> omega

/-! ### The bounds along a job (44_error_diffusion R247) -/

/-- The accumulator of a job when row y stands at column x. No amount is above 2^23 + 1: a cell of row y has received at most
five from each of the L rows above it, a cell of row y + d those of the L − d rows above row y, and its part of row y's. -/
structure EdInBounds (depth y : Nat) (x : Int) (a : Accum) : Prop where
  shaped : AccumShaped a
  car0 : |a.car0.toInt| ≤ 2 * (2 ^ 23 + 1)
  car1 : |a.car1.toInt| ≤ 2 ^ 23 + 1
  own : ∀ c, -2 ≤ c → |accCell depth a y c| ≤ 5 * depth * (2 ^ 23 + 1)
  below : ∀ d c, 1 ≤ d → d ≤ depth → -2 ≤ c →
    |accCell depth a (y + d) c| ≤ (5 * (depth - d) + receivedBefore y x c) * (2 ^ 23 + 1)

/-- A cell of a lower row is as before, or a pixel at most two columns away has added one of its amounts. -/
theorem accDiffuse_cell_cases {depth : Nat} (hdepth : depth ≤ 2) (dir : Dir) {x : Nat} (hx : x < 8192) (y : Nat)
    {sl : List Int} (hsl : sl.length = 12) {a : Accum} (ha : AccumShaped a) {d : Nat} (h1 : 1 ≤ d) (h2 : d ≤ depth)
    {c : Int} (hc : -2 ≤ c) :
    accCell depth (accDiffuse depth dir x y sl a) (y + d) c = accCell depth a (y + d) c ∨
      (x : Int) - 2 ≤ c ∧ c ≤ x + 2 ∧ ∃ v ∈ sl, accCell depth (accDiffuse depth dir x y sl a) (y + d) c =
        (BitVec.ofInt 32 (accCell depth a (y + d) c + v)).toInt := by
  by_cases hhit : ∃ p ∈ slotPositions.zip sl, p.1.2 = d ∧ (x : Int) + p.1.1 * dirSign dir = c
  · obtain ⟨p, hp, rfl, rfl⟩ := hhit
    obtain ⟨hlo, hhi⟩ := slotColumn_bounds dir x (slot_dx_bounds hp)
    exact Or.inr ⟨hlo, hhi, p.2, (List.of_mem_zip hp).2, accDiffuse_cell_of_mem hdepth dir hx y hsl hp ⟨h1, h2⟩ ha⟩
  · refine Or.inl (accSpread_cell_of_missed hdepth dir x y h2 _ fun p hp _ hdy hkey => hhit ⟨p, hp, hdy, ?_⟩)
    have hcol := slotColumn_bounds dir x (slot_dx_bounds hp)
    exact columnKey_injective (by omega) hc hkey

/-- An accumulator of zeros is in bounds. -/
theorem zero_edInBounds {depth : Nat} (hdepth : depth ≤ 2) (y : Nat) (x : Int) : EdInBounds depth y x Accum.zero := by
  have hcell : ∀ r c, accCell depth Accum.zero r c = 0 := by
    intro r c
    have hlt := rowLine_lt hdepth r
    unfold accCell
    interval_cases r % (depth + 1) <;> rfl
  refine ⟨⟨rfl, rfl, rfl⟩, by decide, by decide, fun c _ => ?_, fun d c _ hd _ => ?_⟩
  · rw [hcell, abs_zero]
    positivity
  · have := receivedBefore_bounds y x c
    rw [hcell, abs_zero]
    omega

/-- A pixel keeps the bounds. -/
theorem EdInBounds.pixel {depth y x : Nat} {a : Accum} (h : EdInBounds depth y x a) (hdepth : depth ≤ 2) (hx : x < 8192)
    {sl : List Int} (hlen : sl.length = 12) (hsl : ∀ v ∈ sl, |v| ≤ 2 ^ 23 + 1) :
    EdInBounds depth y (x + dirSign (rowDir y)) (accDiffuse depth (rowDir y) x y sl a) := by
  have hamount : ∀ n < 12, |sl.getD n 0| ≤ 2 ^ 23 + 1 := fun n hn => hsl _ (List.of_mem_zip (slot_mem_zip hlen hn)).2
  have hcar1 := abs_le.1 h.car1
  have hslot0 := abs_le.1 (hamount 0 (by decide))
  have hslot1 := abs_le.1 (hamount 1 (by decide))
  refine ⟨accDiffuse_shaped h.shaped depth _ sl hx, ?_, ?_, fun c hc => ?_, fun d c h1 h2 hc => ?_⟩
  · rw [accDiffuse_car0, toInt_ofInt_word (by omega) (by omega), abs_le]
    omega
  · rw [accDiffuse_car1, toInt_ofInt_word (by omega) (by omega), abs_le]
    omega
  · rw [accDiffuse_cell_own hdepth]
    exact h.own c hc
  · have hbefore := abs_le.1 (h.below d c h1 h2 hc)
    have hcount := receivedBefore_bounds y x c
    rw [abs_le]
    rcases accDiffuse_cell_cases hdepth (rowDir y) hx y hlen h.shaped h1 h2 hc with heq | ⟨hlo, hhi, v, hv, heq⟩
    · have := receivedBefore_mono y x c
      rw [heq]
      omega
    · have hv := abs_le.1 (hsl v hv)
      rw [heq, receivedBefore_succ y hlo hhi, toInt_ofInt_word (by omega) (by omega)]
      omega

/-- A row's end keeps the bounds: the cells of the next row have received from L rows, the line it clears from none. -/
theorem EdInBounds.rowEnd {k : Kernel} {y : Nat} {x : Int} {a : Accum} (h : EdInBounds (kernelDepth k) y x a) (x' : Int) :
    EdInBounds (kernelDepth k) (y + 1) x' (accRowEnd k y a) := by
  obtain ⟨hdepth, -⟩ := kernelDepth_bounds k
  obtain ⟨hclear, hkeep⟩ := accRowEnd_carries k y a
  have hcarries : |(accRowEnd k y a).car0.toInt| ≤ 2 * (2 ^ 23 + 1) ∧ |(accRowEnd k y a).car1.toInt| ≤ 2 ^ 23 + 1 := by
    cases hk : clearsCarries k with
    | true => rw [(hclear hk).1, (hclear hk).2]; decide
    | false => rw [(hkeep hk).1, (hkeep hk).2]; exact ⟨h.car0, h.car1⟩
  refine ⟨accAtRowEnd_shaped h.shaped (.errdif k) y, hcarries.1, hcarries.2, fun c hc => ?_, fun d c h1 h2 hc => ?_⟩
  · have hbefore := h.below 1 c le_rfl hdepth hc
    have hcount := receivedBefore_bounds y x c
    rw [accRowEnd_cell_below k y a c le_rfl hdepth]
    omega
  · have hcount := receivedBefore_bounds (y + 1) x' c
    by_cases hlast : d = kernelDepth k
    · rw [accRowEnd_cell_own k a c (by rw [hlast, add_assoc, add_comm 1, Nat.add_mod_right]), abs_zero]
      omega
    · have hbefore := h.below (d + 1) c (by omega) (by omega) hc
      have hcount' := receivedBefore_bounds y x c
      rw [add_assoc, add_comm 1, accRowEnd_cell_below k y a c (by omega) (by omega)]
      push_cast at hbefore
      omega

/-- Within the bounds no cell of any line reaches 2^27. -/
theorem EdInBounds.cell_lt {depth y : Nat} {x : Int} {a : Accum} (h : EdInBounds depth y x a) (hdepth : depth ≤ 2) (r : Nat)
    (c : Int) : |accCell depth a r c| < 2 ^ 27 := by
  obtain ⟨d, hd, hline⟩ := exists_rowLine y r depth
  have hkey : columnKey c = columnKey (max c (-2)) := by
    simp only [columnKey, Config.margin]
    omega
  have hcell : accCell depth a r c = accCell depth a (y + d) (max c (-2)) := by
    rw [accCell, accCell, hkey, hline]
  rw [hcell]
  rcases Nat.eq_zero_or_pos d with rfl | hpos
  · have := h.own (max c (-2)) (le_max_right ..)
    rw [Nat.add_zero]
    omega
  · have := h.below d (max c (-2)) hpos hd (le_max_right ..)
    have hcount := receivedBefore_bounds y x (max c (-2))
    omega

section

variable {s : State} (hconfig : ConfigLegal s.act) {j : JobLatch} (hwidth : j.width ≤ 8192) (k : Kernel)

include hconfig in
/-- The error of a pixel of a legal configuration, scaled by its amplitude. -/
theorem edError_bounded (t : Int) : |nearest ((quantize t s.act.dst.bits).2 * s.act.ampo) 256| ≤ 2 ^ 23 := by
  obtain ⟨-, -, -, -, -, hampo, -⟩ := hconfig
  obtain ⟨q, -, -, hlo, hhi⟩ := quantize_eq t s.act.dst.bits
  exact diffusedError_bounded hlo hhi hampo

include hconfig hwidth in
/-- The pixels of a row keep the bounds. -/
theorem edAlong_inBounds {y n : Nat} (hn : n ≤ j.width) {p : Accum × Word}
    (h : EdInBounds (kernelDepth k) y (columnAfter j.width y 0) p.1) :
    EdInBounds (kernelDepth k) y (columnAfter j.width y n) (edAlong s j k y n p).1 := by
  induction n with
  | zero => exact h
  | succ n ih =>
    have hbefore := ih (by omega)
    have hcolumn : edColumn j.width y n < 8192 := by
      unfold edColumn
      split <;> omega
    rw [← edColumn_eq_columnAfter y (by omega)] at hbefore
    rw [columnAfter_succ, ← edColumn_eq_columnAfter y (by omega)]
    exact hbefore.pixel (kernelDepth_bounds k).2 hcolumn (splitError_length ..)
      (slotAmount_bounded (edError_bounded hconfig _) k _)

include hconfig hwidth in
/-- Every row starts within the bounds. -/
theorem edRowStart_inBounds (y : Nat) (x : Int) : EdInBounds (kernelDepth k) y x (edRowStart s j k y).1 := by
  induction y generalizing x with
  | zero => exact zero_edInBounds (kernelDepth_bounds k).2 0 x
  | succ y ih => exact (edAlong_inBounds hconfig hwidth k le_rfl (ih _)).rowEnd x

end

end Sys2Proof.Machine

end

section
/-! SUPPORT. An ERRDIF job beside the account of it that `edAlong` and `edRowStart` give: the steps before and after a pixel
of a serpentine row, the run with which the job comes to the pixel, and the sample that the pixel leaves. -/

namespace Sys2Proof.Machine

open Sys2Proof.Claims

/-! ### The table index (44_error_diffusion R242) -/

/-- The index of the model is the rule's. -/
theorem ostroIndex_isTableIndex (src : Format) (raw : Nat) : IsTableIndex src raw (ostroIndex src raw) := by
  refine ⟨fun hint => by simp [ostroIndex, hint, intSample], fun hfloat => ?_⟩
  simp only [ostroIndex, hfloat, if_true]
  refine ⟨fun m hm => ?_, fun hv => by rw [hv], fun hv => by rw [hv]; rfl, fun hv => by rw [hv]; rfl⟩
  have hfloor : ⌊(m : ℚ) / 2 ^ 149 * 256⌋ = m * 256 / 2 ^ 149 := by
    rw [div_mul_eq_mul_div]
    exact_mod_cast Rat.floor_intCast_div_natCast (m * 256) (2 ^ 149)
  rw [hm, hfloor]
  exact Int.toNat_of_nonneg (clamp_bounds _ (by decide)).1

/-! ### One pixel (44_error_diffusion R231, R243) -/

/-- The value of an ERRDIF pixel and the run after it. -/
theorem pixelValue_errdif {s : State} {k : Kernel} (hr : s.act.routine = .errdif k) (x y raw : Nat) (r : Run) :
    pixelValue s x y raw r = diffusePixel s k x y raw r := by
  simp only [pixelValue, hr]

/-- A pixel whose accesses succeed: what it writes and leaves, by its sum T. -/
theorem pixelStep_errdif {s : State} {k : Kernel} (hr : s.act.routine = .errdif k) (x y : Nat) {r : Run}
    (hf : r.busFail = []) {raw : Nat} {t : Int}
    (hraw : raw = memRead r.mem ((sourcePlane s.act r.work.j).addr x y) (containerSize s.act.src))
    (ht : t = workOf s.act.src raw r.work.g r.work.o + accCell (kernelDepth k) r.acc y x + r.acc.car0.toInt +
      (ngDraw r.work.ns s.act.tpdfNoise).2 * ampnEff s.act) :
    ∃ r', pixelStep s x y r = .ok r' ∧
      r'.mem = memWrite r.mem ((destPlane s.act r.work.j).addr x y) (containerSize s.act.dst)
        (quantize t s.act.dst.bits).1.toNat ∧
      r'.acc = accDiffuse (kernelDepth k) r.work.dir x y (splitError k (ostroEntry s.ostroTab (ostroIndex s.act.src raw))
        (nearest ((quantize t s.act.dst.bits).2 * s.act.ampo) 256)) r.acc ∧
      r'.work = { r.work with y := y, x := x, ns := (ngDraw r.work.ns s.act.tpdfNoise).1 } := by
  have hstep := pixelStep_noFail s x y [] r
  rw [show ({ r with busFail := [] } : Run) = r by rw [← hf]] at hstep
  subst hraw ht
  rw [nearest_eq_rnd]
  exact ⟨_, hstep, by simp only [pixelResult, pixelValue_errdif hr]; rfl,
    by simp only [pixelResult, pixelValue_errdif hr]; rfl, by simp only [pixelResult, pixelValue_errdif hr]; rfl⟩

/-! ### The order of a serpentine job (46_engine R320, R321) -/

/-- Row y of an ERRDIF job has its columns in the order of `edColumn`. -/
theorem columnOrder_errdif (k : Kernel) (w y : Nat) : columnOrder (.errdif k) w y = (List.range w).map (edColumn w y) := by
  refine List.ext_getElem? fun n => ?_
  by_cases hn : n < w
  · rw [columnOrder_getElem? _ y hn, List.getElem?_map, List.getElem?_range hn, Option.map_some, edColumn]
    congr 1
    split <;> split <;> simp_all [usesAccumulator]
  · rw [List.getElem?_eq_none (by rw [columnOrder_length]; omega),
      List.getElem?_eq_none (by rw [List.length_map, List.length_range]; omega)]

/-- The first n pixels of row y. -/
def edPixelSteps (w n y : Nat) : List JobStep := (List.range n).map fun i => .pixel (edColumn w y i) y

/-- A row is its start, its pixels and its end. -/
theorem rowSteps_errdif (k : Kernel) (w y : Nat) :
    rowSteps (.errdif k) w y = .rowStart y :: (edPixelSteps w w y ++ [.rowEnd y]) := by
  rw [rowSteps, columnOrder_errdif, List.map_map]
  rfl

/-- The steps of the job before the n-th pixel of row y: the rows above, the row's start and the pixels it comes to first. -/
def edStepsBefore (k : Kernel) (w n y : Nat) : List JobStep :=
  jobSteps (.errdif k) w y ++ .rowStart y :: edPixelSteps w n y

/-- The steps of the job after it: the row's other pixels, its end and the rows below. -/
def edStepsAfter (k : Kernel) (w h n y : Nat) : List JobStep :=
  (List.range' (n + 1) (w - (n + 1))).map (fun i => .pixel (edColumn w y i) y) ++
    .rowEnd y :: (List.range' (y + 1) (h - (y + 1))).flatMap (rowSteps (.errdif k) w)

/-- The job is what comes before a pixel, the pixel, and what comes after it. -/
theorem jobSteps_errdif (k : Kernel) {w h n y : Nat} (hn : n < w) (hy : y < h) :
    jobSteps (.errdif k) w h = edStepsBefore k w n y ++ .pixel (edColumn w y n) y :: edStepsAfter k w h n y := by
  rw [jobSteps, range_eq_append_cons hy, List.flatMap_append, List.flatMap_cons, rowSteps_errdif, edPixelSteps,
    range_eq_append_cons hn]
  simp [edStepsBefore, edStepsAfter, edPixelSteps, jobSteps]

/-- A row's columns are in its plane. -/
theorem edColumn_lt {w n : Nat} (y : Nat) (h : n < w) : edColumn w y n < w := by
  unfold edColumn
  split <;> omega

/-- The pixels after the n-th one of row y are in its row at another column, or in rows below. -/
theorem pixel_of_mem_edStepsAfter {k : Kernel} {w h n y x' y' : Nat} (hn : n < w)
    (hm : .pixel x' y' ∈ edStepsAfter k w h n y) :
    (y' = y ∧ x' < w ∧ (edColumn w y n < x' ∨ x' < edColumn w y n)) ∨ (y < y' ∧ y' < h ∧ x' < w) := by
  simp only [edStepsAfter, List.mem_append, List.mem_map, List.mem_range'_1, JobStep.pixel.injEq, List.mem_cons, reduceCtorEq,
    List.mem_flatMap, rowSteps, List.not_mem_nil, or_false, false_or, mem_columnOrder] at hm
  rcases hm with ⟨i, hi, rfl, rfl⟩ | ⟨i, hi, c, hc, rfl, rfl⟩
  · refine Or.inl ⟨rfl, edColumn_lt y (by omega), ?_⟩
    unfold edColumn
    split <;> omega
  · exact Or.inr (by omega)

/-- Where no later row writes a sample, no later pixel does. -/
theorem spansApart_of_mem_edStepsAfter {p : Plane} (hrow : p.width * p.size ≤ 2 ^ 32) {k : Kernel} {n y x' y' : Nat}
    (hn : n < p.width) (hlast : LastWritten p (edColumn p.width y n) y)
    (hm : .pixel x' y' ∈ edStepsAfter k p.width p.height n y) :
    SpansApart p.size (p.addr (edColumn p.width y n) y) (p.addr x' y') := by
  rcases pixel_of_mem_edStepsAfter hn hm with ⟨rfl, hx', hright | hleft⟩ | ⟨hbelow, hy', hx'⟩
  · exact spansApart_of_row hrow _ hright hx'
  · exact (spansApart_of_row hrow _ hleft (edColumn_lt _ hn)).symm
  · exact hlast x' y' hx' hbelow hy'

/-! ### The run with which a job comes to a pixel (46_engine R317, R318, R327) -/

/-- The run of job `j` with the accumulator and the noise state of `p`: every access is answered, and the source samples are
those the job found. -/
structure EdAt (s : State) (j : JobLatch) (p : Accum × Word) (r : Run) : Prop where
  job : r.work.j = j
  gain : r.work.g = jobGain s.act j
  offset : r.work.o = jobOffset s.act j
  answered : r.busFail = []
  accum : r.acc = p.1
  noise : r.work.ns = p.2
  source : ∀ x < j.width, ∀ y < j.height,
    memRead r.mem ((sourcePlane s.act j).addr x y) (containerSize s.act.src) = sourceSample s j x y

/-- The same inside row y, whose direction is set. -/
structure EdInRow (s : State) (j : JobLatch) (y : Nat) (p : Accum × Word) (r : Run) : Prop extends EdAt s j p r where
  direction : r.work.dir = rowDir y

section

variable {s : State} {j : JobLatch} {k : Kernel} (hr : s.act.routine = .errdif k)

include hr in
/-- A job starts from empty lines, carries of 0 and its seed (46_engine R318, 41_noise R170). -/
theorem jobSetup_edAt (hf : s.busFail = []) : EdAt s j (edRowStart s j k 0) (jobSetup s j) where
  job := rfl
  gain := rfl
  offset := rfl
  answered := hf
  accum := if_pos (by rw [hr]; rfl)
  noise := if_pos (by rw [hr]; rfl)
  source := fun _ _ _ _ => rfl

include hr in
/-- A row's start sets the direction. -/
theorem EdAt.rowStart {y : Nat} {p : Accum × Word} {r : Run} (h : EdAt s j p r) : EdInRow s j y p (rowStartStep s y r) where
  job := h.job
  gain := h.gain
  offset := h.offset
  answered := h.answered
  accum := h.accum
  noise := h.noise
  source := h.source
  direction := by simp only [rowStartStep, hr, dirAtRowStart]

include hr in
/-- A row's end clears its line and takes `eol` of the noise state. -/
theorem EdAt.rowEnd {y : Nat} {p : Accum × Word} {r : Run} (h : EdAt s j p r) :
    EdAt s j (accRowEnd k y p.1, ngEol p.2) (rowEndStep s y r) where
  job := h.job
  gain := h.gain
  offset := h.offset
  answered := h.answered
  accum := by simp only [rowEndStep, hr, accAtRowEnd, h.accum]
  noise := by simp only [rowEndStep, hr, drawsNoise, h.noise, if_true]
  source := h.source

include hr in
/-- A pixel writes the quantizer's output for its sum and hands on what `edPixel` says. -/
theorem EdInRow.pixel {x y : Nat} {p : Accum × Word} {r r' : Run} (h : EdInRow s j y p r) (hx : x < j.width)
    (hy : y < j.height) (hw : j.width < 65536) (hsep : ¬ SharesByte (sourcePlane s.act j) (destPlane s.act j))
    (hstep : jobStep s (.pixel x y) r = .ok r') :
    EdInRow s j y (edPixel s j k y x p) r' ∧
      r'.mem = memWrite r.mem ((destPlane s.act j).addr x y) (containerSize s.act.dst)
        (quantize (edSum s j k y x p) s.act.dst.bits).1.toNat := by
  have hsum : edSum s j k y x p = workOf s.act.src (sourceSample s j x y) r.work.g r.work.o +
      accCell (kernelDepth k) r.acc y x + r.acc.car0.toInt + (ngDraw r.work.ns s.act.tpdfNoise).2 * ampnEff s.act := by
    rw [edSum, h.gain, h.offset, h.accum, h.noise]
  have hraw := (h.source x hx y hy).symm
  rw [← h.job] at hraw
  obtain ⟨u, hu, hmem, hacc, hwork⟩ := pixelStep_errdif (t := edSum s j k y x p) hr x y h.answered hraw
    (by rw [h.job]; exact hsum)
  cases hu.symm.trans hstep
  rw [h.job] at hmem hacc
  refine ⟨⟨⟨?_, ?_, ?_, ?_, ?_, ?_, fun x' hx' y' hy' => ?_⟩, ?_⟩, hmem⟩
  · rw [hwork]; exact h.job
  · rw [hwork]; exact h.gain
  · rw [hwork]; exact h.offset
  · obtain ⟨f, g, hf, hg, rfl⟩ := pixelStep_ok hstep
    rw [h.answered] at hf
    cases hf
    cases hg
    rfl
  · rw [hacc, h.direction, h.accum]
    rfl
  · rw [hwork, edPixel, ← h.noise]
  · rw [← h.source x' hx' y' hy']
    exact runSteps_source_kept (steps := [.pixel x y]) h.job
      (fun _ _ hm => by cases List.mem_singleton.1 hm; exact ⟨hx, hy⟩) hw hsep (by rw [runSteps, hstep]; rfl) hx' hy'
  · rw [hwork]; exact h.direction

section

variable (hw : j.width < 65536) (hsep : ¬ SharesByte (sourcePlane s.act j) (destPlane s.act j))
include hr hw hsep

/-- The first n pixels of a row. -/
theorem EdInRow.pixels {n y : Nat} (hn : n ≤ j.width) (hy : y < j.height) {p : Accum × Word} {r r' : Run}
    (h : EdInRow s j y p r) (hrun : runSteps s (edPixelSteps j.width n y) r = .ok r') :
    EdInRow s j y (edAlong s j k y n p) r' := by
  induction n generalizing r' with
  | zero => cases hrun; exact h
  | succ n ih =>
    rw [edPixelSteps, List.range_succ, List.map_append] at hrun
    obtain ⟨q, hq, hlast⟩ := runSteps_append_ok hrun
    obtain ⟨q', hstep, hnil⟩ := runSteps_cons_ok hlast
    cases hnil
    exact ((ih (by omega) hq).pixel hr (edColumn_lt y (by omega)) hy hw hsep hstep).1

/-- A whole row, from its start to the next one's. -/
theorem EdAt.row {y : Nat} (hy : y < j.height) {r r' : Run} (h : EdAt s j (edRowStart s j k y) r)
    (hrun : runSteps s (rowSteps (.errdif k) j.width y) r = .ok r') : EdAt s j (edRowStart s j k (y + 1)) r' := by
  rw [rowSteps_errdif] at hrun
  obtain ⟨q, hstart, hrest⟩ := runSteps_cons_ok hrun
  cases hstart
  obtain ⟨q, hpixels, hend⟩ := runSteps_append_ok hrest
  cases hend
  exact ((h.rowStart hr).pixels hr hw hsep le_rfl hy hpixels).toEdAt.rowEnd hr

/-- The first y rows of the job. -/
theorem runSteps_rows_edAt (hf : s.busFail = []) {y : Nat} (hy : y ≤ j.height) {r : Run}
    (hrun : runSteps s (jobSteps (.errdif k) j.width y) (jobSetup s j) = .ok r) : EdAt s j (edRowStart s j k y) r := by
  induction y generalizing r with
  | zero => cases hrun; exact jobSetup_edAt hr hf
  | succ y ih =>
    rw [jobSteps, List.range_succ, List.flatMap_append, List.flatMap_singleton] at hrun
    obtain ⟨q, hrows, hrow⟩ := runSteps_append_ok hrun
    exact (ih (by omega) hrows).row hr hw hsep hy hrow

/-- The run with which the job comes to the n-th pixel of row y. -/
theorem runSteps_edStepsBefore (hf : s.busFail = []) {n y : Nat} (hn : n ≤ j.width) (hy : y < j.height) {r : Run}
    (hrun : runSteps s (edStepsBefore k j.width n y) (jobSetup s j) = .ok r) :
    EdInRow s j y (edAlong s j k y n (edRowStart s j k y)) r := by
  obtain ⟨q, hrows, hrest⟩ := runSteps_append_ok hrun
  obtain ⟨q', hstart, hpixels⟩ := runSteps_cons_ok hrest
  cases hstart
  exact ((runSteps_rows_edAt hr hw hsep hf hy.le hrows).rowStart hr).pixels hr hw hsep hn hy hpixels

end

end

/-! ### The job's results (46_engine R319, R327) -/

section

variable {s t : State} {j : JobLatch} {k : Kernel} (hj : JobAccepted s j) (hf : s.busFail = [])
  (hr : s.act.routine = .errdif k) (ht : exec .processPlane s = .next t)
include hj hf hr ht

/-- RNG_STATE takes the noise state after the last row's end. -/
theorem rngState_of_errdif : t.inp.rngState = (edRowStart s j k j.height).2 := by
  have hsep := not_sharesByte_of_accepted hj (by simp [hr])
  obtain ⟨r, hrun, -, he⟩ := exec_of_accepted_noFail hj hf
  cases he.symm.trans ht
  rw [runJob, hr] at hrun
  rw [← (runSteps_rows_edAt hr (width_of_accepted hj) hsep hf le_rfl hrun).noise, succeed_inp, finishJob_inp, hr]
  rfl

/-- The n-th pixel of row y leaves the quantizer's output for its sum, if no later row writes its sample. -/
theorem destSample_of_errdif (hm : Memory.wf s.mem = true) (hdst : formatLegal s.act.dst = true) {n y : Nat}
    (hn : n < j.width) (hy : y < j.height) (hlast : LastWritten (destPlane s.act j) (edColumn j.width y n) y) :
    (destSample s t j (edColumn j.width y n) y : Int) =
      (quantize (edSum s j k y (edColumn j.width y n) (edAlong s j k y n (edRowStart s j k y))) s.act.dst.bits).1 := by
  have hsep := not_sharesByte_of_accepted hj (by simp [hr])
  have hw := width_of_accepted hj
  obtain ⟨r, hrun, -, he⟩ := exec_of_accepted_noFail hj hf
  cases he.symm.trans ht
  rw [runJob, hr, jobSteps_errdif k hn hy] at hrun
  obtain ⟨q, hbefore, hrest⟩ := runSteps_append_ok hrun
  obtain ⟨q', hpixel, hafter⟩ := runSteps_cons_ok hrest
  have hat := runSteps_edStepsBefore hr hw hsep hf hn.le hy hbefore
  obtain ⟨hat', hmem⟩ := hat.pixel hr (edColumn_lt y hn) hy hw hsep hpixel
  have hkept := runSteps_sample_kept (a := (destPlane s.act j).addr (edColumn j.width y n) y) hat'.job
    (fun x' y' h' => spansApart_of_mem_edStepsAfter (destRow_lt_of_accepted hj).le hn hlast h') hafter
  have hsize : containerSize s.act.dst ≤ 2 ^ 32 := (containerSize_le _).trans (by decide)
  rw [destSample, succeed_mem, finishJob_mem, hkept, hmem,
    memRead_memWrite (runSteps_memWf (r := jobSetup s j) hm hbefore) _ hsize, quantize_mod_container hdst]

end

end Sys2Proof.Machine

open Sys2Proof Sys2Proof.Machine Sys2Proof.Claims

/-- Settles O55: the bounds hold along the account of a job, and the job's run follows that account pixel by pixel. -/
theorem errorDiffusionPixelFollowsItsRule : Obligations.ErrorDiffusionPixelFollowsItsRule := by
  refine ⟨ostroIndex_isTableIndex, ?bounds, ?pixel, ?job⟩
  case bounds =>
    rintro s j k y n p hconfig hwidth hn rfl
    have h := edAlong_inBounds hconfig hwidth k hn (edRowStart_inBounds hconfig hwidth k y _)
    refine ⟨h.shaped, h.cell_lt (kernelDepth_bounds k).2, h.car0, h.car1, ?_⟩
    rintro x e rfl
    have he := edError_bounded hconfig (edSum s j k y x (edAlong s j k y n (edRowStart s j k y)))
    exact ⟨he, slotAmount_bounded he k⟩
  case pixel =>
    intro s k x y r hr hf
    obtain ⟨r', hstep, hmem, hacc, hwork⟩ := pixelStep_errdif hr x y hf rfl rfl
    obtain ⟨q, ht, hq, hlo, hhi⟩ := quantize_eq _ s.act.dst.bits
    refine ⟨r', _, q, _, _, hstep, rfl, ht, hlo, hhi, ?_, by rw [hmem, hq], hacc, hwork⟩
    rw [nearest]
    push_cast
    rfl
  case job =>
    intro s t j k hj hf hm hconfig hr ht
    obtain ⟨-, hdst, -⟩ := hconfig
    exact ⟨rngState_of_errdif hj hf hr ht,
      fun n hn y hy hlast => destSample_of_errdif hj hf hr ht hm hdst hn hy hlast⟩

end

section
/-! SUPPORT. The quantizer, the Q32 gain and offset and the work values, over exact rationals, with their bounds; and the command
GAIN_QUERY. -/

namespace Sys2Proof.Machine

open Sys2Proof.Claims

/-! ### The quantizer (45_scale R291) -/

/-- The quantizer's quotient is rounded half up, and its error is taken against it before the clamp. -/
theorem quantize_eq_nearest (t : Int) (b : Nat) :
    quantize t b = (clamp (nearest t 65536) 0 (2 ^ b - 1), t - nearest t 65536 * 65536) := by
  have hquotient : nearest t 65536 = (t + 2 ^ 15) / 2 ^ 16 := by
    rw [nearest_eq_rnd, rnd]
    omega
  rw [quantize, hquotient]
  rfl

/-! ### The ranges of the legal formats (45_scale R280) -/

/-- The model's doubled range is twice the exact one. -/
theorem doubleRange_eq (f : Format) (chroma : Bool) :
    ((doubleRange f chroma).1 : ℚ) = 2 * (rangeOf f chroma).1 ∧ ((doubleRange f chroma).2 : ℚ) = 2 * (rangeOf f chroma).2 := by
  cases hfloat : f.float with
  | true => cases chroma <;> norm_num [doubleRange, rangeOf, hfloat]
  | false =>
    cases hfull : f.full with
    | true => simp [doubleRange, rangeOf, hfloat, hfull]
    | false =>
      simp only [doubleRange, rangeOf, hfloat, hfull, limitedMin, limitedLumaMax, limitedChromaMax, Bool.false_eq_true, if_false]
      cases chroma <;> push_cast <;> exact ⟨by ring, by ring⟩

/-- The model's doubled width is twice the exact one. -/
theorem doubleWidth_eq (f : Format) (chroma : Bool) :
    (doubleWidth f chroma : ℚ) = 2 * ((rangeOf f chroma).2 - (rangeOf f chroma).1) := by
  obtain ⟨hmin, hmax⟩ := doubleRange_eq f chroma
  rw [doubleWidth, Int.cast_sub, hmin, hmax, mul_sub]

/-- A legal integer depth is from 8 to 16. -/
theorem bits_of_legal_integer {f : Format} (h : formatLegal f = true) (hint : f.float = false) : 8 ≤ f.bits ∧ f.bits ≤ 16 := by
  have hdepth : f.bits ∈ Config.integerDepths := by simpa [formatLegal, hint] using h
  have hall : ∀ b ∈ Config.integerDepths, 8 ≤ b ∧ b ≤ 16 := by decide
  exact hall _ hdepth

/-- A depth of 8 to 16 bits has 256·k values, where k = 2^(b − 8) is from 1 to 256. -/
theorem two_pow_depth {b : Nat} (hlo : 8 ≤ b) (hhi : b ≤ 16) :
    ∃ k : Int, 1 ≤ k ∧ k ≤ 256 ∧ (2 : Int) ^ (b - 8) = k ∧ (2 : Int) ^ b = 256 * k := by
  refine ⟨2 ^ (b - 8), one_le_pow₀ (by decide), ?_, rfl, ?_⟩
  · calc (2 : Int) ^ (b - 8) ≤ 2 ^ 8 := pow_le_pow_right₀ (by decide) (by omega)
      _ = 256 := by decide
  · rw [show (256 : Int) = 2 ^ 8 by decide, ← pow_add, Nat.add_sub_cancel' hlo]

/-- The doubled range of a legal format: that of float samples, or by the depth that of full and of limited integers. -/
theorem doubleRange_cases {f : Format} (h : formatLegal f = true) (chroma : Bool) :
    (f.float = true ∧ (doubleRange f chroma = (0, 2) ∨ doubleRange f chroma = (-1, 1))) ∨
      f.float = false ∧ ∃ k : Int, 1 ≤ k ∧ k ≤ 256 ∧ (2 : Int) ^ f.bits = 256 * k ∧
        (doubleRange f chroma = (0, 512 * k - 2) ∨ doubleRange f chroma = (32 * k, 470 * k) ∨
          doubleRange f chroma = (32 * k, 480 * k)) := by
  cases hfloat : f.float with
  | true => exact .inl ⟨rfl, by cases chroma <;> simp [doubleRange, hfloat]⟩
  | false =>
    obtain ⟨hlo, hhi⟩ := bits_of_legal_integer h hfloat
    obtain ⟨k, hk, hk', hsteps, hvalues⟩ := two_pow_depth hlo hhi
    refine .inr ⟨rfl, k, hk, hk', hvalues, ?_⟩
    rw [doubleRange, hfloat, hvalues, hsteps]
    cases f.full with
    | true => exact .inl (congrArg (Prod.mk 0) (by ring : 2 * (256 * k - 1) = 512 * k - 2))
    | false => exact .inr (by cases chroma <;> simp [limitedMin, limitedLumaMax, limitedChromaMax])

/-- No legal range is empty, the widest is that of full 16-bit samples, and a range's lowest level is small, against its
width too. -/
theorem doubleRange_bounds {f : Format} (h : formatLegal f = true) (chroma : Bool) :
    2 ≤ doubleWidth f chroma ∧ doubleWidth f chroma ≤ 131070 ∧ |(doubleRange f chroma).1| ≤ 8192 ∧
      |2 * (doubleRange f chroma).1| ≤ doubleWidth f chroma := by
  rw [doubleWidth, abs_le, abs_le]
  obtain ⟨-, he | he⟩ | ⟨-, k, hk, hk', -, he | he | he⟩ := doubleRange_cases h chroma
  all_goals
    rw [he]
    dsimp only
    omega

/-- A masked sample is a value of its depth (45_scale R285). -/
theorem intSample_lt (f : Format) (raw : Nat) : intSample f raw < 2 ^ f.bits :=
  Nat.mod_lt _ (Nat.two_pow_pos _)

/-- An integer sample is less than the doubled width of its range. -/
theorem intSample_lt_doubleWidth {f : Format} (h : formatLegal f = true) (hint : f.float = false) (chroma : Bool) (raw : Nat) :
    ((intSample f raw : Nat) : Int) < doubleWidth f chroma := by
  have hlt : ((intSample f raw : Nat) : Int) < 2 ^ f.bits := by exact_mod_cast intSample_lt f raw
  obtain ⟨hfloat, -⟩ | ⟨-, k, hk, hk', hvalues, hrange⟩ := doubleRange_cases h chroma
  · cases hint.symm.trans hfloat
  · rw [hvalues] at hlt
    rw [doubleWidth]
    obtain he | he | he := hrange <;> rw [he] <;> dsimp only <;> omega

/-! ### The Q32 gain and offset (45_scale R282, R283) -/

/-- A quotient of at most c in magnitude stays so when it is rounded. -/
theorem abs_rnd_le {n c : Int} {d : Nat} (hd : 0 < d) (h : |n| ≤ c * d) : |rnd n d| ≤ c := by
  obtain ⟨hlo, hhi⟩ := rnd_bounds n hd
  obtain ⟨h1, h2⟩ := abs_le.1 h
  have hd' : (0 : Int) < d := by exact_mod_cast hd
  rw [abs_le]
  constructor <;> by_contra hc <;> nlinarith

section

variable {src dst : Format} (hsrc : formatLegal src = true) (chroma : Bool)
include hsrc

/-- The gain is the exact one rounded half up. -/
theorem gainQ32_eq : gainQ32 src dst chroma = ⌊exactGain src dst chroma * 2 ^ 32 + 1 / 2⌋ := by
  obtain ⟨hpos, -⟩ := doubleRange_bounds hsrc chroma
  have hwidth : ((doubleWidth src chroma).toNat : ℚ) = doubleWidth src chroma := by
    exact_mod_cast Int.toNat_of_nonneg (by omega)
  rw [gainQ32, ← nearest_eq_rnd, nearest, hwidth, exactGain]
  simp only [Int.cast_mul, Int.cast_pow, Int.cast_ofNat]
  rw [doubleWidth_eq, doubleWidth_eq, mul_assoc, mul_div_mul_left _ _ two_ne_zero, div_mul_eq_mul_div]

/-- The offset is the exact one rounded half up. -/
theorem offsetQ32_eq : offsetQ32 src dst chroma = ⌊exactOffset src dst chroma * 2 ^ 32 + 1 / 2⌋ := by
  obtain ⟨hpos, -⟩ := doubleRange_bounds hsrc chroma
  have hwidth : ((2 * doubleWidth src chroma).toNat : ℚ) = 2 * doubleWidth src chroma := by
    exact_mod_cast Int.toNat_of_nonneg (by omega)
  have hne : (rangeOf src chroma).2 - (rangeOf src chroma).1 ≠ 0 := by
    have h := doubleWidth_eq src chroma
    intro hzero
    rw [hzero, mul_zero, Int.cast_eq_zero] at h
    omega
  rw [offsetQ32, ← nearest_eq_rnd, nearest, hwidth, exactOffset, exactGain]
  push_cast
  rw [doubleWidth_eq, doubleWidth_eq, (doubleRange_eq dst chroma).1, (doubleRange_eq src chroma).1]
  congr 2
  field_simp
  ring

variable (hdst : formatLegal dst = true)
include hdst

/-- The gain is below 2^49: the widest range over the narrowest is 65535. -/
theorem gainQ32_bounded : |gainQ32 src dst chroma| < 2 ^ 49 := by
  obtain ⟨hs, -⟩ := doubleRange_bounds hsrc chroma
  obtain ⟨hd, hd', -⟩ := doubleRange_bounds hdst chroma
  have h : |gainQ32 src dst chroma| ≤ 131070 * 2 ^ 31 := by
    refine abs_rnd_le (by omega) ?_
    rw [abs_of_nonneg (by omega), Int.toNat_of_nonneg (by omega)]
    omega
  omega

/-- The offset is below 2^49: the source's lowest level is at most half its width. -/
theorem offsetQ32_bounded : |offsetQ32 src dst chroma| < 2 ^ 49 := by
  obtain ⟨hs, -, -, hs'⟩ := doubleRange_bounds hsrc chroma
  obtain ⟨hd, hd', hmin, -⟩ := doubleRange_bounds hdst chroma
  have h : |offsetQ32 src dst chroma| ≤ 65536 * 2 ^ 32 := by
    refine abs_rnd_le (by omega) ?_
    rw [abs_mul, abs_two] at hs'
    rw [Int.toNat_of_nonneg (by omega), abs_mul, abs_of_pos (by decide : (0 : Int) < 2 ^ 32)]
    have hfirst : |(doubleRange dst chroma).1 * doubleWidth src chroma| ≤ 8192 * doubleWidth src chroma := by
      rw [abs_mul, abs_of_nonneg (by omega : 0 ≤ doubleWidth src chroma)]
      exact mul_le_mul_of_nonneg_right hmin (by omega)
    have hsecond : |(doubleRange src chroma).1 * doubleWidth dst chroma| ≤ |(doubleRange src chroma).1| * 131070 := by
      rw [abs_mul, abs_of_nonneg (by omega : 0 ≤ doubleWidth dst chroma)]
      exact mul_le_mul_of_nonneg_left hd' (abs_nonneg _)
    have hsum := abs_sub ((doubleRange dst chroma).1 * doubleWidth src chroma)
      ((doubleRange src chroma).1 * doubleWidth dst chroma)
    omega
  omega

/-- The affine map of an integer sample is below 2^63 in magnitude (45_scale R286, R289). -/
theorem scaled_bounded (hint : src.float = false) (raw : Nat) :
    |((intSample src raw : Nat) : Int) * gainQ32 src dst chroma + offsetQ32 src dst chroma| < 2 ^ 63 := by
  obtain ⟨hs, hs', -⟩ := doubleRange_bounds hsrc chroma
  obtain ⟨hd, hd', -⟩ := doubleRange_bounds hdst chroma
  have hv := intSample_lt_doubleWidth hsrc hint chroma raw
  have ho := abs_lt.1 (offsetQ32_bounded hsrc chroma hdst)
  obtain ⟨hlo, hhi⟩ := rnd_bounds (doubleWidth dst chroma * 2 ^ 32) (d := (doubleWidth src chroma).toNat) (by omega)
  rw [Int.toNat_of_nonneg (by omega), ← gainQ32] at hlo hhi
  have hgain : 0 ≤ gainQ32 src dst chroma := by
    by_contra hc
    nlinarith
  have hv0 : (0 : Int) ≤ (intSample src raw : Nat) := Int.natCast_nonneg _
  have hprod0 := mul_nonneg hv0 hgain
  have hprod : ((intSample src raw : Nat) : Int) * gainQ32 src dst chroma ≤ doubleWidth src chroma * gainQ32 src dst chroma :=
    mul_le_mul_of_nonneg_right hv.le hgain
  rw [abs_lt]
  constructor <;> nlinarith

end

/-! ### Work values (45_scale R285 to R287, R294) -/

/-- The clamp keeps a work value in −2^47 .. 2^47 − 1. -/
theorem workClamp_bounds (v : Int) : -2 ^ 47 ≤ workClamp v ∧ workClamp v ≤ 2 ^ 47 - 1 :=
  clamp_bounds v (by decide)

/-- A value in that range is left alone by the clamp. -/
theorem workClamp_of_mem {v : Int} (hlo : -2 ^ 47 ≤ v) (hhi : v ≤ 2 ^ 47 - 1) : workClamp v = v :=
  clamp_of_mem hlo hhi

/-- The work value of an integer source. -/
theorem workOf_integer {src : Format} (h : src.float = false) (raw : Nat) (g o : Int) :
    workOf src raw g o = workOfInt (intSample src raw) g o := by
  simp [workOf, h]

/-- The work value of a float source. -/
theorem workOf_float {src : Format} (h : src.float = true) (raw : Nat) (g o : Int) :
    workOf src raw g o = workOfFloat (floatValueOf raw) g o := by
  simp [workOf, h]

/-- The work value of a float stays in range, an infinity's at one of its bounds. -/
theorem workOfFloat_bounds (v : FloatValue) (g o : Int) : -2 ^ 47 ≤ workOfFloat v g o ∧ workOfFloat v g o ≤ 2 ^ 47 - 1 := by
  cases v with
  | finite n => exact workClamp_bounds _
  | inf negative => cases negative <;> simp [workOfFloat]
  | nan => exact workClamp_bounds _

/-- Every work value stays in range. -/
theorem workOf_bounds (src : Format) (raw : Nat) (g o : Int) : -2 ^ 47 ≤ workOf src raw g o ∧ workOf src raw g o ≤ 2 ^ 47 - 1 := by
  cases h : src.float with
  | true => rw [workOf_float h]; exact workOfFloat_bounds ..
  | false => rw [workOf_integer h]; exact workClamp_bounds _

/-- The clamp does not act on an integer sample of legal formats. -/
theorem workOf_legal_integer {src dst : Format} (hsrc : formatLegal src = true) (hdst : formatLegal dst = true)
    (hint : src.float = false) (chroma : Bool) (raw : Nat) :
    workOf src raw (gainQ32 src dst chroma) (offsetQ32 src dst chroma) =
      (((intSample src raw : Nat) : Int) * gainQ32 src dst chroma + offsetQ32 src dst chroma) / 2 ^ 16 := by
  have h := abs_lt.1 (scaled_bounded hsrc chroma hdst hint raw)
  rw [workOf_integer hint, workOfInt]
  exact workClamp_of_mem (by omega) (by omega)

/-- The work value of a finite float is that of its exact value, rounded down and clamped. -/
theorem workOfFloat_finite (n g o : Int) :
    workOfFloat (.finite n) g o = min (max ⌊((n : ℚ) / 2 ^ 149 * g + o) / 2 ^ 16⌋ (-2 ^ 47)) (2 ^ 47 - 1) := by
  have hexact : ((n : ℚ) / 2 ^ 149 * g + o) / 2 ^ 16 = ((n * g + o * 2 ^ 149 : Int) : ℚ) / ((2 ^ 165 : Nat) : ℚ) := by
    push_cast
    field_simp
    ring
  rw [hexact, Rat.floor_intCast_div_natCast]
  rfl

/-- What a binary32 word stands for, by its exponent: 255 is an infinity or a NaN, 0 a subnormal, any other a normal value
(log 25). -/
theorem floatValueOf_cases {raw frac ex : Nat} {neg : Bool} (hfrac : frac = raw % 2 ^ 23) (hex : ex = raw / 2 ^ 23 % 2 ^ 8)
    (hneg : neg = raw.testBit 31) :
    floatValueOf raw = if ex = 255 then (if frac = 0 then .inf neg else .nan)
      else .finite ((if neg = true then -1 else 1) * (if ex = 0 then (frac : Int) else (2 ^ 23 + frac) * 2 ^ (ex - 1))) := by
  have hsign : neg = decide (raw / 2 ^ 31 % 2 = 1) := by rw [hneg, Nat.testBit_eq_decide_div_mod_eq]
  have hvalue : (if neg = true then -1 else 1) * (if ex = 0 then (frac : Int) else (2 ^ 23 + frac) * 2 ^ (ex - 1)) =
      if neg = true then -((if ex = 0 then frac else (2 ^ 23 + frac) * 2 ^ (ex - 1) : Nat) : Int)
      else ((if ex = 0 then frac else (2 ^ 23 + frac) * 2 ^ (ex - 1) : Nat) : Int) := by
    split_ifs <;> push_cast <;> ring
  rw [hvalue, hfrac, hex, hsign]
  rfl

/-! ### GAIN_QUERY (45_scale R284) -/

/-- A 64-bit word is its two halves, the high one first. -/
theorem halves_append (v : BitVec 64) : v.extractLsb' 32 32 ++ v.extractLsb' 0 32 = v := by
  rw [BitVec.extractLsb'_append_extractLsb'_eq_extractLsb' (by decide)]
  exact BitVec.extractLsb'_eq_self

/-- The gain and offset registers of a state that shows `g` and `o` (10_state R48). -/
theorem showGain_pairs (g o : Int) (s : State) :
    (showGain g o s).gainHi ++ (showGain g o s).gainLo = BitVec.ofInt 64 g ∧
      (showGain g o s).offHi ++ (showGain g o s).offLo = BitVec.ofInt 64 o :=
  ⟨halves_append _, halves_append _⟩

/-- A value below 2^49 in magnitude is one of a signed 64-bit word. -/
theorem toInt_ofInt_gain {v : Int} (h : |v| < 2 ^ 49) : (BitVec.ofInt 64 v).toInt = v := by
  have := abs_lt.1 h
  exact BitVec.toInt_ofInt_eq_self (by decide) (by omega) (by omega)

/-- A plane is chroma as 45_scale R281 says. -/
theorem isChroma_iff (family : Family) (plane : Nat) : isChroma family plane = true ↔ family = .yuv ∧ (plane = 1 ∨ plane = 2) := by
  simp [isChroma]

/-- GAIN_QUERY with a configuration (45_scale R284). -/
theorem execGainQuery_of_valid {s : State} (h : s.cfgValid = true) {chroma : Bool}
    (hchroma : chroma = isChroma s.act.family (planeIndexOf s.operands)) : execGainQuery s = .next (succeed
      (showGain (gainQ32 s.act.src s.act.dst chroma) (offsetQ32 s.act.src s.act.dst chroma) s)) := by
  rw [hchroma]
  exact whenConstructed_of_valid _ _ h

end Sys2Proof.Machine

open Sys2Proof Sys2Proof.Machine Sys2Proof.Claims

/-- Settles O37: the doubled ranges give the exact quotients, and their bounds those of the rounded ones. -/
theorem gainAndOffsetAreRoundedHalfUp : Obligations.GainAndOffsetAreRoundedHalfUp := by
  intro src dst chroma hsrc hdst
  exact ⟨gainQ32_eq hsrc chroma, offsetQ32_eq hsrc chroma, gainQ32_bounded hsrc chroma hdst, offsetQ32_bounded hsrc chroma hdst⟩

/-- Settles O38: with a configuration the command shows the gain and offset of the latched plane, both in range of 64 bits;
without one it is NOT_CONSTRUCTED. -/
theorem gainQueryShowsGainAndOffset : Obligations.GainQueryShowsGainAndOffset := by
  intro s hactive
  refine ⟨fun h => ⟨_, execGainQuery_of_valid h rfl, fun _ => rfl, rfl, fun chroma hchroma => ?_⟩,
    fun h => whenConstructed_of_invalid .gainQuery _ h⟩
  obtain ⟨hsrc, hdst, -⟩ := hactive h
  have hplane : chroma = isChroma s.act.family (planeIndexOf s.operands) := by
    rw [Bool.eq_iff_iff, hchroma, isChroma_iff, planeIndexOf_eq]
  obtain ⟨hgain, hoffset⟩ := showGain_pairs (gainQ32 s.act.src s.act.dst chroma) (offsetQ32 s.act.src s.act.dst chroma) s
  rw [← hplane, ← gainQ32_eq hsrc, ← offsetQ32_eq hsrc]
  simp only [succeed_gainHi, succeed_gainLo, succeed_offHi, succeed_offLo, hgain, hoffset]
  exact ⟨toInt_ofInt_gain (gainQ32_bounded hsrc chroma hdst), toInt_ofInt_gain (offsetQ32_bounded hsrc chroma hdst)⟩

/-- Settles O39: the bounds are the clamp's, which acts on no integer sample of legal formats; a float word by its exponent. -/
theorem workValuesAreBounded : Obligations.WorkValuesAreBounded := by
  refine ⟨workOf_bounds, fun src dst chroma raw hsrc hdst hint => workOf_legal_integer hsrc hdst hint chroma raw, ?word, ?float⟩
  case word =>
    intro raw frac ex neg hfrac hex hneg
    rw [floatValueOf_cases hfrac hex hneg]
    refine ⟨fun h h' => by simp [h, h'], fun h h' => by simp [h, h'], fun h => by simp [h], fun h h' => by simp [h, h']⟩
  case float =>
    intro raw src g o hfloat
    rw [workOf_float hfloat]
    refine ⟨fun m h => by rw [h, workOfFloat_finite], fun h => by rw [h]; rfl, fun h => by rw [h]; rfl, fun h ho => ?_⟩
    have := abs_lt.1 ho
    rw [h]
    exact workClamp_of_mem (by omega) (by omega)

/-- Settles O40: the quotient and its error by the rule's rounding. -/
theorem quantizerRoundsHalfUp : Obligations.QuantizerRoundsHalfUp := by
  intro t bd
  obtain ⟨q, -, -, hlo, hhi⟩ := quantize_eq t bd
  refine ⟨?_, hlo, by omega, (quantize_bounds t bd).1, (quantize_bounds t bd).2⟩
  rw [quantize_eq_nearest, nearest]
  rfl

end

section
/-! SUPPORT. Rounding to binary32: the exact target and the rounded significand on the grid of the result's last place, the word
that holds them, and why no other finite word is nearer. -/

namespace Sys2Proof.Machine

/-! ### Rounding on a grid (45_scale R289) -/

/-- A quotient rounded to nearest, a tie going to the even one: u is the divisor and ρ the remainder. -/
def roundedQuotient (q ρ u : Nat) : Nat := if u < 2 * ρ ∨ (2 * ρ = u ∧ q % 2 = 1) then q + 1 else q

/-- The quotient is rounded down with a remainder of at most half the divisor, or up with one of at least half, exactly half
leaving an even result. -/
theorem roundedQuotient_cases (q ρ u : Nat) :
    (roundedQuotient q ρ u = q ∧ 2 * ρ ≤ u ∧ (2 * ρ = u → q % 2 = 0)) ∨
      (roundedQuotient q ρ u = q + 1 ∧ u ≤ 2 * ρ ∧ (2 * ρ = u → (q + 1) % 2 = 0)) := by
  unfold roundedQuotient
  split <;> omega

/-- How far a multiple of u is from q·u + ρ: by at least u, but for the two multiples around it. -/
theorem multiple_distance {q ρ u : Nat} (hρ : ρ < u) (c : Int) :
    (u : Int) ≤ |c * u - (q * u + ρ)| ∨ (c = q ∧ |c * u - (q * u + ρ)| = ρ) ∨
      (c = q + 1 ∧ |c * u - (q * u + ρ)| = u - ρ) := by
  have hc : c * (u : Int) - (q * u + ρ) = (c - q) * u - ρ := by ring
  rw [hc]
  rcases lt_trichotomy c q with h | rfl | h
  · have hbelow : (c - q) * (u : Int) ≤ -u := by nlinarith
    exact .inl (by rw [abs_of_neg (by omega)]; omega)
  · exact .inr (.inl ⟨rfl, by simp⟩)
  · rcases eq_or_ne c (q + 1) with rfl | hne
    · exact .inr (.inr ⟨rfl, by rw [add_sub_cancel_left, one_mul, abs_of_pos (by omega)]⟩)
    · have habove : 2 * (u : Int) ≤ (c - q) * u := mul_le_mul_of_nonneg_right (by omega) (Int.natCast_nonneg u)
      exact .inl (by rw [abs_of_pos (by omega)]; omega)

/-- No multiple of u is nearer to q·u + ρ than the rounded quotient's, and another one is as near only if that is even. -/
theorem roundedQuotient_nearest_multiple {q ρ u : Nat} (hρ : ρ < u) (c : Int) :
    |(roundedQuotient q ρ u : Int) * u - (q * u + ρ)| ≤ |c * u - (q * u + ρ)| ∧
      (|(roundedQuotient q ρ u : Int) * u - (q * u + ρ)| = |c * u - (q * u + ρ)| → c ≠ roundedQuotient q ρ u →
        roundedQuotient q ρ u % 2 = 0) := by
  have hother := multiple_distance (q := q) hρ c
  obtain ⟨hm, hrem, htie⟩ | ⟨hm, hrem, htie⟩ := roundedQuotient_cases q ρ u
  · have hown : |(q : Int) * u - (q * u + ρ)| = ρ := by simp
    rw [hm, hown]
    omega
  · have hown : |((q + 1 : Nat) : Int) * u - (q * u + ρ)| = u - ρ := by
      rw [← abs_of_pos (by omega : (0 : Int) < u - ρ)]
      congr 1
      push_cast
      ring
    rw [hm, hown]
    omega

/-- A value that is a multiple of u or lies below the grid's 2^23-rd point is no nearer than the rounded quotient's, and is as
near only if that is even or is itself the rounded one. -/
theorem roundedQuotient_nearest {q ρ u : Nat} (hq : 2 ^ 23 ≤ q) (hρ : ρ < u) {x : Int} (hx : (u : Int) ∣ x ∨ |x| < 2 ^ 23 * u) :
    |(roundedQuotient q ρ u : Int) * u - (q * u + ρ)| ≤ |x - (q * u + ρ)| ∧
      (|(roundedQuotient q ρ u : Int) * u - (q * u + ρ)| = |x - (q * u + ρ)| → x ≠ roundedQuotient q ρ u * u →
        roundedQuotient q ρ u % 2 = 0) := by
  rcases hx with ⟨c, rfl⟩ | hx
  · rw [mul_comm (u : Int) c]
    obtain ⟨hle, htie⟩ := roundedQuotient_nearest_multiple (q := q) hρ c
    exact ⟨hle, fun he hne => htie he (fun hc => hne (by rw [hc]))⟩
  · obtain ⟨hle, -⟩ := roundedQuotient_nearest_multiple (q := q) hρ (2 ^ 23)
    have hgrid : 2 ^ 23 * (u : Int) ≤ q * u := mul_le_mul_of_nonneg_right (by exact_mod_cast hq) (Int.natCast_nonneg u)
    have hbelow := abs_lt.1 hx
    have hlt : |2 ^ 23 * (u : Int) - (q * u + ρ)| < |x - (q * u + ρ)| := by
      rw [abs_of_nonpos (by omega), abs_of_nonpos (by omega)]
      omega
    exact ⟨by omega, fun he => by omega⟩

/-- A common factor of divisor and remainder does not change the rounding. -/
theorem roundedQuotient_scale (q ρ u : Nat) {c : Nat} (hc : 0 < c) : roundedQuotient q (ρ * c) (u * c) = roundedQuotient q ρ u := by
  simp only [roundedQuotient, ← mul_assoc, mul_lt_mul_iff_left₀ hc, mul_left_inj' hc.ne']

/-- The rounded significand of a magnitude, on the grid of its last place: a · 2^117 is what a · 2^−32 is in units of
2^−149, and 2^(k + 94) is that place when a has k + 1 bits. -/
theorem roundMagnitude_eq {a : Nat} (ha : 0 < a) :
    ∃ q ρ, 2 ^ 23 ≤ q ∧ q < 2 ^ 24 ∧ ρ < 2 ^ (Nat.log2 a + 94) ∧ a * 2 ^ 117 = q * 2 ^ (Nat.log2 a + 94) + ρ ∧
      roundMagnitude a = (Nat.log2 a + 95) * 2 ^ 23 + (roundedQuotient q ρ (2 ^ (Nat.log2 a + 94)) - 2 ^ 23) := by
  have hlo : 2 ^ Nat.log2 a ≤ a := Nat.log2_self_le ha.ne'
  have hhi : a < 2 ^ (Nat.log2 a + 1) := Nat.lt_log2_self
  unfold roundMagnitude
  generalize Nat.log2 a = k at *
  rcases Nat.lt_or_ge 23 k with hk | hk
  · obtain ⟨i, rfl⟩ : ∃ i, k = i + 23 := ⟨k - 23, by omega⟩
    have hd : 0 < 2 ^ i := Nat.two_pow_pos i
    have hplace : 2 ^ (i + 23 + 94) = 2 ^ i * 2 ^ 117 := by rw [add_assoc, pow_add]
    refine ⟨a / 2 ^ i, a % 2 ^ i * 2 ^ 117, ?_, ?_, ?_, ?_, ?_⟩
    · rw [Nat.le_div_iff_mul_le hd, ← pow_add, add_comm]
      exact hlo
    · rw [Nat.div_lt_iff_lt_mul hd, ← pow_add, show 24 + i = i + 23 + 1 by ring]
      exact hhi
    · rw [hplace]
      exact Nat.mul_lt_mul_of_pos_right (Nat.mod_lt _ hd) (by decide)
    · rw [hplace, ← mul_assoc, ← add_mul, Nat.div_add_mod']
    · rw [hplace, roundedQuotient_scale _ _ _ (by decide)]
      simp only [if_neg (by omega : ¬ i + 23 ≤ 23), Nat.add_sub_cancel]
      rfl
  · obtain ⟨i, hi⟩ : ∃ i, 23 = k + i := ⟨23 - k, by omega⟩
    have hexact : roundedQuotient (a * 2 ^ i) 0 (2 ^ (k + 94)) = a * 2 ^ i :=
      if_neg (by have := Nat.two_pow_pos (k + 94); omega)
    refine ⟨a * 2 ^ i, 0, ?_, ?_, by positivity, ?_, ?_⟩
    · rw [hi, pow_add]
      exact Nat.mul_le_mul_right _ hlo
    · rw [show 24 = k + 1 + i by omega, pow_add]
      exact Nat.mul_lt_mul_of_pos_right hhi (by positivity)
    · rw [mul_assoc, ← pow_add, show i + (k + 94) = 117 by omega, add_zero]
    · simp only [hexact, if_pos (show k ≤ 23 from hk), show 23 - k = i by omega]

/-! ### Words and their values (45_scale R285; log 25) -/

/-- The value of a word put together from a sign, a normal exponent and a fraction. -/
theorem floatValueOf_fields (neg : Bool) {ex frac : Nat} (hex : 1 ≤ ex) (hex' : ex ≤ 254) (hfrac : frac < 2 ^ 23) :
    floatValueOf ((if neg = true then 2 ^ 31 else 0) + (ex * 2 ^ 23 + frac)) =
      .finite ((if neg = true then -1 else 1) * ((2 ^ 23 + frac) * 2 ^ (ex - 1))) := by
  have hsign : neg = ((if neg = true then 2 ^ 31 else 0) + (ex * 2 ^ 23 + frac)).testBit 31 := by
    rw [Nat.testBit_eq_decide_div_mod_eq]
    cases neg with
    | true => exact (decide_eq_true (by rw [if_pos rfl]; omega)).symm
    | false => exact (decide_eq_false (by rw [if_neg Bool.false_ne_true]; omega)).symm
  rw [floatValueOf_cases (frac := frac) (ex := ex) (by split <;> omega) (by split <;> omega) hsign, if_neg (by omega)]
  simp only [if_neg (by omega : ¬ ex = 0)]

/-- The value of a word put together from a sign and a rounded significand, whose carry goes into the exponent. -/
theorem floatValueOf_significand (neg : Bool) {e m : Nat} (he : e ≤ 252) (hm : 2 ^ 23 ≤ m) (hm' : m ≤ 2 ^ 24) :
    floatValueOf ((if neg = true then 2 ^ 31 else 0) + ((e + 1) * 2 ^ 23 + (m - 2 ^ 23))) =
      .finite ((if neg = true then -1 else 1) * (m * 2 ^ e)) := by
  rcases hm'.lt_or_eq with hlt | rfl
  · rw [floatValueOf_fields neg (by omega) (by omega) (by omega)]
    rw [Nat.add_sub_cancel, Nat.cast_sub hm, Nat.cast_pow, Nat.cast_ofNat, add_sub_cancel]
  · have hcarry : (e + 1) * 2 ^ 23 + (2 ^ 24 - 2 ^ 23) = (e + 2) * 2 ^ 23 + 0 := by ring
    rw [hcarry, floatValueOf_fields neg (by omega) (by omega) (by decide), show e + 2 - 1 = e + 1 from rfl]
    congr 2
    push_cast
    ring

/-- Every finite value is a multiple of 2^e, or below 2^(e + 23) in magnitude: a binary32 significand has 24 bits. -/
theorem floatValueOf_dvd_or_lt {w : Nat} {m : Int} (h : floatValueOf w = .finite m) (e : Nat) :
    ((2 ^ e : Nat) : Int) ∣ m ∨ |m| < 2 ^ 23 * (2 ^ e : Nat) := by
  have hfrac : w % 2 ^ 23 < 2 ^ 23 := Nat.mod_lt _ (by decide)
  rw [floatValueOf_cases rfl rfl rfl] at h
  generalize w % 2 ^ 23 = frac at *
  generalize w / 2 ^ 23 % 2 ^ 8 = ex at *
  have hsign : |if w.testBit 31 = true then (-1 : Int) else 1| = 1 := by split <;> rfl
  generalize (if w.testBit 31 = true then (-1 : Int) else 1) = sign at *
  split at h
  · split at h <;> cases h
  · cases h
    rw [abs_mul, hsign, one_mul]
    split
    · refine .inr ?_
      rw [Nat.abs_cast]
      exact_mod_cast hfrac.trans_le (Nat.le_mul_of_pos_right _ (Nat.two_pow_pos e))
    · rcases Nat.lt_or_ge (ex - 1) e with hlt | hge
      · refine .inr ?_
        rw [abs_of_nonneg (by positivity)]
        have hpow : 2 ^ (ex - 1) * 2 ≤ 2 ^ e := by
          rw [← pow_succ]
          exact Nat.pow_le_pow_right (by decide) hlt
        have hpos : 0 < 2 ^ (ex - 1) := Nat.two_pow_pos _
        exact_mod_cast (by nlinarith : (2 ^ 23 + frac) * 2 ^ (ex - 1) < 2 ^ 23 * 2 ^ e)
      · refine .inl (Dvd.dvd.mul_left (Dvd.dvd.mul_left ?_ _) _)
        exact_mod_cast pow_dvd_pow 2 hge

/-! ### RNE_f32 (45_scale R289) -/

/-- The word of a nonzero n: its sign, and its magnitude's significand rounded to the last place 2^(k + 94). -/
theorem roundToFloat_eq {n : Int} (hn : n ≠ 0) (hlt : |n| < 2 ^ 64) :
    ∃ k q ρ : Nat, k < 64 ∧ 2 ^ 23 ≤ q ∧ q < 2 ^ 24 ∧ ρ < 2 ^ (k + 94) ∧ |n| * 2 ^ 117 = q * (2 ^ (k + 94) : Nat) + ρ ∧
      roundToFloat n = (if decide (n < 0) = true then 2 ^ 31 else 0) +
        ((k + 94 + 1) * 2 ^ 23 + (roundedQuotient q ρ (2 ^ (k + 94)) - 2 ^ 23)) := by
  have hpos : 0 < n.natAbs := Int.natAbs_pos.2 hn
  have hlt' : n.natAbs < 2 ^ 64 := by
    rw [Int.abs_eq_natAbs] at hlt
    exact_mod_cast hlt
  obtain ⟨q, ρ, hq, hq', hρ, hexact, hround⟩ := roundMagnitude_eq hpos
  refine ⟨Nat.log2 n.natAbs, q, ρ, (Nat.log2_lt hpos.ne').2 hlt', hq, hq', hρ, ?_, ?_⟩
  · rw [Int.abs_eq_natAbs]
    exact_mod_cast hexact
  · simp only [roundToFloat, if_neg hn, hround, decide_eq_true_eq]

/-- The word of a nonzero n is a normal number (45_scale R289). -/
theorem roundToFloat_normal {n : Int} (hn : n ≠ 0) (hlt : |n| < 2 ^ 64) : roundToFloat n < 2 ^ 32 ∧
    1 ≤ roundToFloat n / 2 ^ 23 % 2 ^ 8 ∧ roundToFloat n / 2 ^ 23 % 2 ^ 8 ≤ 254 := by
  obtain ⟨k, q, ρ, hk, hq, hq', -, -, hword⟩ := roundToFloat_eq hn hlt
  have hm := roundedQuotient_cases q ρ (2 ^ (k + 94))
  rw [hword]
  split <;> omega

/-- Every word is one of 32 bits. -/
theorem roundToFloat_lt {n : Int} (hlt : |n| < 2 ^ 64) : roundToFloat n < 2 ^ 32 := by
  rcases eq_or_ne n 0 with rfl | hn
  · decide
  · obtain ⟨h, -⟩ := roundToFloat_normal hn hlt
    exact h

/-- No finite word is nearer to n/2^32 than `RNE_f32`'s, and another value is as near only if its significand is even. -/
theorem roundToFloat_nearest {n : Int} (hn : n ≠ 0) (hlt : |n| < 2 ^ 64) :
    ∃ m, floatValueOf (roundToFloat n) = .finite m ∧ ∀ w m', floatValueOf w = .finite m' →
      |m - n * 2 ^ 117| ≤ |m' - n * 2 ^ 117| ∧
        (|m - n * 2 ^ 117| = |m' - n * 2 ^ 117| → m' ≠ m → roundToFloat n % 2 = 0) := by
  obtain ⟨k, q, ρ, hk, hq, hq', hρ, hexact, hword⟩ := roundToFloat_eq hn hlt
  have hm := roundedQuotient_cases q ρ (2 ^ (k + 94))
  have hvalue := floatValueOf_significand (decide (n < 0)) (e := k + 94) (m := roundedQuotient q ρ (2 ^ (k + 94)))
    (by omega) (by omega) (by omega)
  have hparity : roundToFloat n % 2 = roundedQuotient q ρ (2 ^ (k + 94)) % 2 := by
    rw [hword]
    split <;> omega
  rw [← hword] at hvalue
  refine ⟨_, hvalue, fun w m' hw => ?_⟩
  have hgrid := floatValueOf_dvd_or_lt hw (k + 94)
  have hplace : ((2 ^ (k + 94) : Nat) : Int) = 2 ^ (k + 94) := by push_cast; rfl
  rw [hparity, ← hplace]
  rcases hn.lt_or_gt with hneg | hpos
  · have hflip : ∀ a : Int, |a - n * 2 ^ 117| = |-a - |n| * 2 ^ 117| := fun a => by
      rw [abs_of_neg hneg, ← abs_neg]
      congr 1
      ring
    have hnear := roundedQuotient_nearest hq hρ (x := -m') (by rwa [dvd_neg, abs_neg])
    rw [← hexact] at hnear
    rw [hflip, hflip, decide_eq_true hneg, if_pos rfl, neg_one_mul, neg_neg]
    exact ⟨hnear.1, fun he hne => hnear.2 he (fun hc => hne (by rw [← hc, neg_neg]))⟩
  · have hnear := roundedQuotient_nearest hq hρ hgrid
    rw [← hexact, abs_of_pos hpos] at hnear
    rw [decide_eq_false hpos.not_gt, if_neg Bool.false_ne_true, one_mul]
    exact hnear

end Sys2Proof.Machine

open Sys2Proof Sys2Proof.Machine Sys2Proof.Claims

/-- Settles O41: the rounded significand is on the grid that every finite value of that size is on, and a smaller one is
further off. -/
theorem roundToFloatIsNearestEven : Obligations.RoundToFloatIsNearestEven := by
  refine ⟨rfl, fun n hn hlt => ?_⟩
  obtain ⟨hword, hlo, hhi⟩ := roundToFloat_normal hn hlt
  obtain ⟨m, hm, hnear⟩ := roundToFloat_nearest hn hlt
  exact ⟨hword, hlo, hhi, m, hm, fun w m' _ => hnear w m'⟩

end

section
/-! SUPPORT. The pixels of COPY, SHIFT, FLOAT_OUT and ORDERED by their source sample and the noise state of their places, and that
each value fits its destination container. -/

namespace Sys2Proof.Machine

open Sys2Proof.Claims

/-! ### Values and containers (20_memory R83, R84) -/

/-- A container of n bytes holds a number of 8n bits. -/
theorem memRead_lt (m : Memory) (a : Word) (n : Nat) : memRead m a n < 2 ^ (8 * n) := by
  induction n generalizing a with
  | zero => exact Nat.one_pos
  | succ n ih =>
    have hbyte := (memByte m a).isLt
    have htail := ih (a + 1)
    rw [memRead, show 2 ^ (8 * (n + 1)) = 256 * 2 ^ (8 * n) by ring]
    omega

/-- A value of a legal format's depth is unchanged by its container. -/
theorem mod_container {f : Format} (h : formatLegal f = true) {v : Nat} (hv : v < 2 ^ f.bits) :
    v % 2 ^ (8 * containerSize f) = v :=
  Nat.mod_eq_of_lt (hv.trans_le (Nat.pow_le_pow_right two_pos (bits_le_container h)))

/-- A shifted sample is a value of the destination depth (45_scale R288). -/
theorem shiftValue_lt {bs bd v : Nat} (hv : v < 2 ^ bs) : shiftValue bs bd v < 2 ^ bd := by
  unfold shiftValue
  split
  · next hle =>
    rw [← Nat.add_sub_cancel' hle, pow_add, Nat.add_sub_cancel_left]
    exact Nat.mul_lt_mul_of_pos_right hv (Nat.two_pow_pos _)
  · next hgt =>
    rw [Nat.div_lt_iff_lt_mul (Nat.two_pow_pos _), ← pow_add, Nat.add_sub_cancel' (by omega)]
    exact hv

/-! ### What the routine says of the formats (46_engine R313) -/

/-- The routine of a pair of formats: COPY for identical ones; of the others FLOAT_OUT has a float destination, and the
routines that draw noise an integer one. -/
theorem selectRoutine_cases {src dst : Format} {m : Mode} {q : Routine} (h : selectRoutine src dst m = .ok q) :
    (formatIdentical src dst = true ∧ q = .copy) ∨
      formatIdentical src dst = false ∧
        (q = .shift ∨ (dst.float = true ∧ q = .floatOut) ∨ (dst.float = false ∧ drawsNoise q = true)) := by
  unfold selectRoutine at h
  cases hid : formatIdentical src dst with
  | true =>
    rw [hid] at h
    cases h
    exact .inl ⟨rfl, rfl⟩
  | false =>
    rw [hid, if_neg Bool.false_ne_true] at h
    refine .inr ⟨rfl, ?_⟩
    cases m with
    | fast =>
      dsimp only at h
      split at h <;> cases h
      exact .inl rfl
    | flat | bayer | vac | qrs | diffuse k =>
      cases hd : dst.float <;> rw [hd] at h <;> cases h
      · exact .inr (.inr ⟨rfl, rfl⟩)
      · exact .inr (.inl ⟨rfl, rfl⟩)

/-- COPY is the routine of identical formats only. -/
theorem identical_of_copy {src dst : Format} {m : Mode} (h : selectRoutine src dst m = .ok .copy) :
    formatIdentical src dst = true := by
  obtain ⟨hid, -⟩ | ⟨-, hq | ⟨-, hq⟩ | ⟨-, hq⟩⟩ := selectRoutine_cases h
  · exact hid
  all_goals cases hq

/-- Identical formats have containers of one size. -/
theorem containerSize_of_identical {src dst : Format} (h : formatIdentical src dst = true) :
    containerSize src = containerSize dst := by
  obtain ⟨hs, hd⟩ | ⟨hs, hd, hbits, -⟩ := (formatIdentical_iff src dst).1 h
  · rw [containerSize_float hs, containerSize_float hd]
  · simp only [containerSize, hs, hd, hbits]

/-- FLOAT_OUT has an integer source and a float destination. -/
theorem formats_of_floatOut {src dst : Format} {m : Mode} (h : selectRoutine src dst m = .ok .floatOut) :
    src.float = false ∧ dst.float = true := by
  obtain ⟨-, hq⟩ | ⟨hid, hq | ⟨hdst, -⟩ | ⟨-, hq⟩⟩ := selectRoutine_cases h
  case inr.inr.inl =>
    refine ⟨Bool.eq_false_iff.2 fun hsrc => ?_, hdst⟩
    exact Bool.eq_false_iff.1 hid ((formatIdentical_iff src dst).2 (.inl ⟨hsrc, hdst⟩))
  all_goals cases hq

/-! ### The pixels (46_engine R322 to R325) -/

/-- The value of a COPY pixel. -/
theorem pixelValue_copy {s : State} (h : s.act.routine = .copy) (x y raw : Nat) (r : Run) : (pixelValue s x y raw r).1 = raw := by
  simp only [pixelValue, h, copyPixel]

/-- The value of a SHIFT pixel. -/
theorem pixelValue_shift {s : State} (h : s.act.routine = .shift) (x y raw : Nat) (r : Run) :
    (pixelValue s x y raw r).1 = shiftValue s.act.src.bits s.act.dst.bits (intSample s.act.src raw) := by
  simp only [pixelValue, h, shiftPixel]

/-- The value of a FLOAT_OUT pixel, by the working state with which the job comes to it. -/
theorem pixelValue_floatOut {s : State} {j : JobLatch} {x y : Nat} {r : Run} (h : s.act.routine = .floatOut)
    (hr : WorkInRow s.act j x y r.work) (raw : Nat) : (pixelValue s x y raw r).1 =
      roundToFloat (((intSample s.act.src raw : Nat) : Int) * jobGain s.act j + jobOffset s.act j) := by
  simp only [pixelValue, h, floatOutPixel, floatOutValue, hr.gain, hr.offset]

/-- The value of an ORDERED pixel, by the working state with which the job comes to it. -/
theorem pixelValue_ordered {s : State} {j : JobLatch} {x y : Nat} {r : Run} (h : s.act.routine = .ordered)
    (hr : WorkInRow s.act j x y r.work) (raw : Nat) :
    (pixelValue s x y raw r).1 = (quantize (workOf s.act.src raw (jobGain s.act j) (jobOffset s.act j) +
      patval s (if s.act.dyn = true then j.frame.toNat % 4 else 0) x y * s.act.ampo + noiseTerm s.act j x y)
        s.act.dst.bits).1.toNat := by
  have hnoise := hr.noise (by rw [h]; rfl)
  simp only [pixelValue, h, orderedPixel, drawNoise, hr.gain, hr.offset, hr.rotation, hnoise, noiseTerm]

end Sys2Proof.Machine

open Sys2Proof Sys2Proof.Machine Sys2Proof.Claims

/-- Settles O49: a COPY whose planes share a byte is the in-place one, which leaves memory; any other writes each container
as it was read. -/
theorem copyJobCopiesContainers : Obligations.CopyJobCopiesContainers := by
  intro s t j hj hf hm hconfig hcopy ht x hx y hy hlast
  obtain ⟨-, -, -, -, -, -, -, hroutine⟩ := hconfig
  have hsize := containerSize_of_identical (identical_of_copy (hcopy ▸ hroutine))
  by_cases hshare : SharesByte (sourcePlane s.act j) (destPlane s.act j)
  · have ⟨_, hinPlace, _⟩ := hj
    obtain ⟨-, hbase, hstride⟩ := hinPlace hshare
    obtain ⟨hmem, -⟩ := inPlaceCopyLeavesMemory s t j hj hf hm hcopy hsize hbase hstride ht
    simp only [destSample, sourceSample, hmem, sourcePlane, destPlane, hbase, hstride, hsize]
  · obtain ⟨r, -, hsample⟩ := destSample_of_job hj hf hm (by rw [hcopy]; rfl) hshare ht hx hy hlast
    rw [hsample, pixelValue_copy hcopy, ← hsize]
    exact Nat.mod_eq_of_lt (memRead_lt ..)

/-- Settles O51: the shifted sample is a value of the destination depth, which its container holds. -/
theorem shiftJobShiftsSamples : Obligations.ShiftJobShiftsSamples := by
  intro s t j hj hf hm hconfig hshift ht x hx y hy hlast
  obtain ⟨-, hdst, -⟩ := hconfig
  have hsep := not_sharesByte_of_accepted hj (by simp [hshift])
  obtain ⟨r, -, hsample⟩ := destSample_of_job hj hf hm (by rw [hshift]; rfl) hsep ht hx hy hlast
  have hfits := mod_container hdst (shiftValue_lt (bd := s.act.dst.bits) (intSample_lt s.act.src (sourceSample s j x y)))
  rw [hsample, pixelValue_shift hshift, hfits]
  rfl

/-- Settles O52: the scaled sample of an integer source is below 2^63 in magnitude, so that it rounds to a 32-bit word. -/
theorem floatOutJobRoundsSamples : Obligations.FloatOutJobRoundsSamples := by
  intro s t j hj hf hm hconfig hfloat ht x hx y hy hlast
  obtain ⟨hsrc, hdst, -, -, -, -, -, hroutine⟩ := hconfig
  obtain ⟨hint, hout⟩ := formats_of_floatOut (hfloat ▸ hroutine)
  have hsep := not_sharesByte_of_accepted hj (by simp [hfloat])
  obtain ⟨r, hr, hsample⟩ := destSample_of_job hj hf hm (by rw [hfloat]; rfl) hsep ht hx hy hlast
  have hbound := scaled_bounded hsrc (isChroma s.act.family j.plane) hdst hint (sourceSample s j x y)
  rw [hsample, pixelValue_floatOut hfloat hr, containerSize_float hout]
  exact Nat.mod_eq_of_lt (roundToFloat_lt (hbound.trans (by decide)))

/-- Settles O53: an ORDERED job's rows run left to right and its planes are disjoint, so that each sample is the value of its
pixel at the noise state of the pixel's place, which its container holds. -/
theorem orderedJobDithersSamples : Obligations.OrderedJobDithersSamples := by
  intro s t j hj hf hm hconfig hordered ht x hx y hy hlast
  obtain ⟨-, hdst, -⟩ := hconfig
  have hsep := not_sharesByte_of_accepted hj (by simp [hordered])
  obtain ⟨r, hr, hsample⟩ := destSample_of_job hj hf hm (by rw [hordered]; rfl) hsep ht hx hy hlast
  rw [hsample, pixelValue_ordered hordered hr, quantize_mod_container hdst]

end

section
/-! SUPPORT. Whose move a step is, what a submission does by the opcode of its word, and how a command completes: with which
effect, or with which error and information word. -/

namespace Sys2Proof.Machine

open Sys2Proof.Claims

/-! ### Whose move it is (20_memory R92; log 1, 2, 3) -/

/-- HOST moves first in its turn, if it has something to do. -/
theorem hostMovesFirst_iff (s : State) : hostMovesFirst s = true ↔ s.turns.head? = some .host ∧ s.host ≠ [] := by
  simp [hostMovesFirst]

/-- SEQ's step is the latched command, the turn used up (46_engine R311). -/
theorem step_of_seq {s : State} {l : Latch} {i : Instr} (hl : s.latch = some l) (hturn : hostMovesFirst s = false)
    (hd : decode l.word = .command i) : step s = exec i s.popTurn := by
  simp [step, hl, hturn, hd]

/-- With an empty latch a step is HOST's move. -/
theorem step_of_idle {s : State} (hl : s.latch = none) : step s = hostMove s := by
  simp [step, hl]

/-- In HOST's turn a step is HOST's move, the turn used up. -/
theorem step_of_hostTurn {s : State} {l : Latch} (hl : s.latch = some l) (hturn : hostMovesFirst s = true) :
    step s = hostMove s.popTurn := by
  simp [step, hl, hturn]

/-- HOST's step is its move; a turn is used up only while a command runs. -/
theorem step_of_hostActs {s : State} (h : HostActs s) :
    step s = hostMove { s with turns := if s.latch.isSome = true then s.turns.tail else s.turns } := by
  cases hb : s.latch.isSome with
  | false => exact step_of_idle (by simpa using hb)
  | true =>
    obtain ⟨l, hl⟩ := Option.isSome_iff_exists.1 hb
    exact step_of_hostTurn hl ((hostActs_iff_of_latch hl).1 h)

/-- HOST's move is the first operation of its list. -/
theorem hostMove_of_cons {s : State} {op : HostOp} {rest : List HostOp} (h : s.host = op :: rest) :
    hostMove s = hostOperation op { s with host := rest } := by
  simp [hostMove, h]

/-- With nothing to do HOST's move leaves the state (60_exceptions R377). -/
theorem hostMove_of_nil {s : State} (h : s.host = []) : hostMove s = .next s := by
  simp [hostMove, h]

/-- The word of a well-formed command stands in the latch when SEQ is to fetch it. -/
theorem withFetchWord_encode (s : State) {i : Instr} (h : i.wellFormed = true) :
    s.withFetchWord 32 (encode i).toNat =
      { s with latch := some { word := encode i, regs := s.inp }, turns := [] } := by
  have hword : BitVec.ofNat 32 ((encode i).toNat % 2 ^ 32) = encode i := by
    rw [Nat.mod_eq_of_lt (encode i).isLt, BitVec.ofNat_toNat, BitVec.setWidth_eq]
  simp only [State.withFetchWord, hword, decode_encode h]

/-! ### Submission (46_engine R310) -/

/-- HOST's write to CMD is a submission. -/
theorem hostOperation_writeCmd (w : Word) (s : State) : hostOperation (.write 0x08 32 w) s = .next (submit w s) := rfl

/-- A word with a legal opcode is a command. -/
theorem decode_of_legal {w : Word} (h : w.toNat % 256 ∈ legalOpcodes) : ∃ i, decode w = .command i := by
  obtain ⟨i, hi, -⟩ := (decoderIsTotalAndIgnoresReservedBits w).2 h
  exact ⟨i, hi⟩

/-- While a command runs a submission is CMD_BUSY (60_exceptions R364). -/
theorem submit_of_busy {s : State} (h : s.latch ≠ none) (w : Word) : submit w s = raiseError .cmdBusy w s :=
  if_pos (Option.isSome_iff_ne_none.2 h)

/-- An idle FDE records CMD_ILLEGAL for a word that is no command. -/
theorem submit_of_illegal {s : State} (h : s.latch = none) {w : Word} (hw : w.toNat % 256 ∉ legalOpcodes) :
    submit w s = raiseError .cmdIllegal w s := by
  simp [submit, State.busy, h, (decoderIsTotalAndIgnoresReservedBits w).1 hw]

/-- An idle FDE accepts a command. -/
theorem submit_of_legal {s : State} (h : s.latch = none) {w : Word} (hw : w.toNat % 256 ∈ legalOpcodes) :
    submit w s = { s with latch := some { word := w, regs := s.inp } } := by
  obtain ⟨i, hi⟩ := decode_of_legal hw
  simp [submit, State.busy, h, hi]

/-! ### How a command completes (46_engine R311, 60_exceptions R361) -/

/-- The errors a command records without having begun a job, with their information words: the command word for
NOT_CONSTRUCTED and WRONG_ROUTINE, 0 for the checks of CONSTRUCT and PROCESS_PLANE (60_exceptions R361). -/
inductive ReportedError (s : State) : ErrorCode → Word → Prop where
  | notConstructed (i : Instr) : ReportedError s .notConstructed (s.commandWord i)
  | wrongRoutine (i : Instr) : ReportedError s .wrongRoutine (s.commandWord i)
  | check {e : ErrorCode} (h : errorCode e ∈ [0x01, 0x02, 0x03, 0x04, 0x05, 0x06, 0x10, 0x11, 0x12]) :
      ReportedError s e 0

/-- A check of CONSTRUCT that fails reports a code of the configuration (46_engine R312). -/
theorem constructError_mem {r : InputRegs} {code : BitVec 8} (h : constructError r = some code) :
    code ∈ [0x01, 0x02, 0x03, 0x04, 0x05, 0x06] := by
  unfold constructError at h
  dsimp only at h
  split_ifs at h <;> cases h <;> decide

/-- The errors of CONSTRUCT (46_engine R312). -/
theorem reportedError_of_checkConfig {s : State} {e : ErrorCode} (h : checkConfig s.operands = .error e) :
    ReportedError s e 0 := by
  rcases checkConfig_cases s.operands with ⟨e', hcode, he'⟩ | ⟨-, a, ha, -⟩
  · cases h.symm.trans he'
    exact .check (List.mem_append_left [0x10, 0x11, 0x12] (constructError_mem hcode))
  · cases h.symm.trans ha

/-- The errors of PROCESS_PLANE before a job (46_engine R316). -/
theorem reportedError_of_planJob {s : State} {e : ErrorCode} {info : Word} (h : planJob s = .reject e info) :
    ReportedError s e info := by
  unfold planJob at h
  dsimp only at h
  split_ifs at h <;> cases h
  · exact .notConstructed _
  all_goals exact .check (by decide)

/-- How command `i`, which is not SOFT_RESET, completes from `s`: it shows results, CONSTRUCT commits the configuration it
checked, a job finishes, an error is reported with nothing else changed, or an access stops the job. Unlike `Completion`
it names the errors with their information words, and the command that commits. -/
inductive Answer (i : Instr) (s : State) : State → Prop where
  | results {u : State} (h : OnlyResultsWritten s u) : Answer i s (succeed u)
  | committed {a : ActiveConfig} (hi : i = .construct) (h : checkConfig s.operands = .ok a) :
      Answer i s (succeed (commitConfig a s))
  | finished {j : JobLatch} {r : Run} (hp : planJob s = .run j) (hr : runJob s j = .ok r) :
      Answer i s (succeed (finishJob r s))
  | reported {e : ErrorCode} {info : Word} (h : ReportedError s e info) : Answer i s (failWith e info s)
  | busError {j : JobLatch} {b : BusFailure} (hp : planJob s = .run j) (hr : runJob s j = .error b) :
      Answer i s (failWith .busError b.addr (abandonJob b.run s))

/-- A command that needs a configuration shows its results, or reports that there is none (60_exceptions R365). -/
theorem whenConstructed_answer {i : Instr} {s t u : State} (h : whenConstructed i s u = .next t)
    (hu : OnlyResultsWritten s u) : Answer i s t := by
  rcases whenConstructed_cases i s u with ⟨-, he⟩ | ⟨-, he⟩ <;> cases he.symm.trans h
  · exact .results hu
  · exact .reported (.notConstructed i)

/-- Every command but SOFT_RESET that goes on completes in one of these ways. -/
theorem exec_answer {i : Instr} {s t : State} (hi : i ≠ .softReset) (h : exec i s = .next t) : Answer i s t := by
  cases i with
  | softReset => exact absurd rfl hi
  | nop | rngStep | rngEol | qrsNext => cases h; exact .results (onlyResultsWritten_of ..)
  | rngSeed | qrsSeed | patRead | gainQuery => exact whenConstructed_answer h (onlyResultsWritten_of ..)
  | construct =>
    rcases execConstruct_cases s with ⟨e, hc, he⟩ | ⟨a, hc, he⟩ <;> cases he.symm.trans h
    · exact .reported (reportedError_of_checkConfig hc)
    · exact .committed rfl hc
  | edSplit idx =>
    rcases execEdSplit_cases idx s with ⟨-, he⟩ | ⟨-, -, he⟩ | ⟨k, sl, -, -, -, he⟩ <;> cases he.symm.trans h
    · exact .reported (.notConstructed _)
    · exact .reported (.wrongRoutine _)
    · exact .results (onlyResultsWritten_of ..)
  | processPlane =>
    rcases execProcessPlane_cases s with
      ⟨e, info, hp, he⟩ | ⟨-, he⟩ | ⟨q, -, he⟩ | ⟨j, r, hp, hr, he⟩ | ⟨j, b, hp, hr, he⟩ <;> cases he.symm.trans h
    · exact .reported (reportedError_of_planJob hp)
    · exact .results (onlyResultsWritten_of ..)
    · exact .finished hp hr
    · exact .busError hp hr

/-- The code and the information word of a reported error are those of 60_exceptions R361. -/
theorem ReportedError.listed {s : State} {e : ErrorCode} {info : Word} (h : ReportedError s e info) :
    errorCode e ∈ [0x01, 0x02, 0x03, 0x04, 0x05, 0x06, 0x10, 0x11, 0x12, 0x22, 0x23] ∧
      (errorCode e = 0x22 ∨ errorCode e = 0x23 → ∀ l, s.latch = some l → info = l.word) ∧
      (errorCode e ≠ 0x22 → errorCode e ≠ 0x23 → info = 0) := by
  have hword : ∀ (i : Instr) (l : Latch), s.latch = some l → s.commandWord i = l.word := fun i l hl => by
    rw [State.commandWord, hl]
  cases h with
  | notConstructed i => exact ⟨by decide, fun _ => hword i, fun hne _ => absurd rfl hne⟩
  | wrongRoutine i => exact ⟨by decide, fun _ => hword i, fun _ hne => absurd rfl hne⟩
  | check hmem =>
    have hnot : errorCode e ≠ 0x22 ∧ errorCode e ≠ 0x23 :=
      ⟨fun hc => absurd (hc ▸ hmem) (by decide), fun hc => absurd (hc ▸ hmem) (by decide)⟩
    refine ⟨List.mem_append_left [0x22, 0x23] hmem, fun hc => ?_, fun _ _ => rfl⟩
    exact absurd hc (not_or.2 hnot)

end Sys2Proof.Machine

open Sys2Proof Sys2Proof.Machine Sys2Proof.Claims

/-- Settles O42. -/
theorem nopOnlySetsDone : Obligations.NopOnlySetsDone :=
  fun s => ⟨succeed s, rfl, fun _ => rfl, rfl⟩

/-- Settles O5: by whose move the step is. -/
theorem stepRunsTheLatchedCommand : Obligations.StepRunsTheLatchedCommand := by
  refine ⟨fun s l i => step_of_seq, fun s i hi => ?_, hostMovesFirst_iff, fun s op rest h hhost => ?_, fun s hl hhost => ?_⟩
  · rw [withFetchWord_encode s hi]
    exact step_of_seq rfl rfl (decode_encode hi)
  · rw [step_of_hostActs h]
    exact hostMove_of_cons hhost
  · rw [step_of_idle hl]
    exact hostMove_of_nil hhost

/-- Settles O6: by whether the FDE is busy and the opcode legal. -/
theorem submissionFollowsBusyAndDecode : Obligations.SubmissionFollowsBusyAndDecode := by
  intro s w
  rw [hostOperation_writeCmd]
  refine ⟨fun hbusy => ?_, fun hidle hw => ?_, fun hidle hw => ⟨_, rfl, submit_of_legal hidle hw, ?_⟩⟩
  · rw [submit_of_busy hbusy]
    rfl
  · rw [submit_of_illegal hidle hw]
    rfl
  · rw [submit_of_legal hidle hw]
    exact statusWord_busy _

/-- Settles O7: by how the command completes. -/
theorem everyCommandSucceedsOrRecordsOneError : Obligations.EveryCommandSucceedsOrRecordsOneError := by
  intro i s t hi h
  cases exec_answer hi h with
  | results hu => exact ⟨rfl, .inl (by rw [hu]; exact ⟨rfl, rfl, rfl⟩)⟩
  | committed _ _ => exact ⟨rfl, .inl ⟨rfl, rfl, rfl⟩⟩
  | finished _ _ => exact ⟨rfl, .inl (by rw [finishJob_frame]; exact ⟨rfl, rfl, rfl⟩)⟩
  | reported he =>
    obtain ⟨hmem, hword, hzero⟩ := he.listed
    exact ⟨rfl, .inr (.inr ⟨hmem, rfl, hword, hzero⟩)⟩
  | busError _ _ => exact ⟨rfl, .inr (.inl ⟨rfl, rfl⟩)⟩

end

section
/-! SUPPORT. What keeps the configuration: every operation of HOST but the reset input, and every command but CONSTRUCT and
SOFT_RESET. -/

namespace Sys2Proof.Machine

open Sys2Proof.Claims

/-- `t` has the tables of `s` (10_state R54). -/
def TablesSame (s t : State) : Prop := t.vacRank = s.vacRank ∧ t.ostroTab = s.ostroTab

/-- The tables belong to what `ConfigSame` keeps. -/
theorem ConfigSame.tables {s t : State} (h : ConfigSame s t) : TablesSame s t := by
  obtain ⟨-, -, -, hvac, hostro⟩ := h
  exact ⟨hvac, hostro⟩

/-- A state has its own configuration. -/
theorem ConfigSame.refl (s : State) : ConfigSame s s := ⟨rfl, rfl, rfl, rfl, rfl⟩

/-- HOST's write to a register leaves the configuration: the staging registers are not ACT (46_engine R330). -/
theorem writeRegister_configSame (off : Nat) (v : Word) (s : State) : ConfigSame s (writeRegister off v s) := by
  unfold writeRegister
  split
  · rcases submit_cases v s with ⟨-, he⟩ | ⟨-, -, he⟩ | ⟨-, i, -, he⟩ <;> rw [he] <;> exact .refl s
  all_goals exact .refl s

/-- The reset input leaves the tables and no valid configuration (70_reset R390). -/
theorem hardReset_config {done : Nat} {s t : State} (h : hardReset done s = .next t) :
    TablesSame s t ∧ t.cfgValid = false := by
  rcases hardReset_cases done s with ⟨j, -, he⟩ | ⟨r, -, he⟩ | he <;> cases he.symm.trans h <;>
    exact ⟨⟨rfl, rfl⟩, rfl⟩

/-- An operation of HOST leaves the configuration, or is the reset input. -/
theorem hostOperation_config {op : HostOp} {s t : State} (h : hostOperation op s = .next t) :
    ConfigSame s t ∨ (TablesSame s t ∧ (∃ n, op = .hardReset n) ∧ t.cfgValid = false) := by
  cases op with
  | write off width v =>
    obtain ⟨-, rfl⟩ := hostOperation_write_next h
    exact .inl (writeRegister_configSame off v s)
  | read off width =>
    obtain rfl := hostOperation_read_next h
    exact .inl (.refl s)
  | wait =>
    cases h
    rw [pollStatus_eq]
    exact .inl (.refl s)
  | memWrite a b =>
    obtain rfl := hostMemWrite_next h
    exact .inl (.refl s)
  | memRead a fresh =>
    cases h
    exact .inl (.refl s)
  | hardReset n =>
    obtain ⟨htab, hvalid⟩ := hardReset_config h
    exact .inr ⟨htab, ⟨n, rfl⟩, hvalid⟩

/-- So does HOST's move. -/
theorem hostMove_config {s t : State} (h : hostMove s = .next t) :
    ConfigSame s t ∨ (TablesSame s t ∧ (∃ n rest, s.host = .hardReset n :: rest) ∧ t.cfgValid = false) := by
  rcases hostMove_cases s with ⟨-, he⟩ | ⟨op, rest, hhost, he⟩
  · cases he.symm.trans h
    exact .inl (.refl s)
  · rcases hostOperation_config (he.symm.trans h) with hsame | ⟨htab, ⟨n, rfl⟩, hvalid⟩
    · exact .inl hsame
    · exact .inr ⟨htab, ⟨n, rest, hhost⟩, hvalid⟩

/-- A command leaves the configuration, or is CONSTRUCT, which leaves a valid one, or SOFT_RESET, which leaves none
(46_engine R330). -/
theorem exec_config {i : Instr} {s t : State} (h : exec i s = .next t) :
    ConfigSame s t ∨ (TablesSame s t ∧ (i = .construct ∧ t.cfgValid = true ∨ i = .softReset ∧ t.cfgValid = false)) := by
  by_cases hi : i = .softReset
  · subst hi
    cases h
    exact .inr ⟨⟨rfl, rfl⟩, .inr ⟨rfl, rfl⟩⟩
  cases exec_answer hi h with
  | results hu => exact .inl (by rw [hu]; exact .refl s)
  | committed hc _ => exact .inr ⟨⟨rfl, rfl⟩, .inl ⟨hc, rfl⟩⟩
  | finished _ _ => exact .inl (by rw [finishJob_frame]; exact .refl s)
  | reported _ => exact .inl (.refl s)
  | busError _ _ => exact .inl (.refl s)

/-- HOST's step leaves the configuration, or is the reset input. -/
theorem step_config_of_hostActs {s t : State} (hacts : HostActs s) (h : step s = .next t) :
    ConfigSame s t ∨ (TablesSame s t ∧ (∃ n rest, s.host = .hardReset n :: rest) ∧ t.cfgValid = false) :=
  hostMove_config (s := { s with turns := if s.latch.isSome = true then s.turns.tail else s.turns })
    ((step_of_hostActs hacts).symm.trans h)

/-- SEQ's step leaves the configuration, or runs CONSTRUCT or SOFT_RESET. -/
theorem step_config_of_seq {s t : State} (hseq : ¬ HostActs s) (h : step s = .next t) :
    ConfigSame s t ∨ (TablesSame s t ∧ ∃ l i, s.latch = some l ∧ decode l.word = .command i ∧
      (i = .construct ∧ t.cfgValid = true ∨ i = .softReset ∧ t.cfgValid = false)) := by
  rcases step_cases s with ⟨hl, -⟩ | ⟨l, hl, hturn, -⟩ | ⟨l, i, hl, -, hd, hs⟩ | ⟨l, w, -, -, -, hs⟩
  · exact absurd (.inl hl) hseq
  · exact absurd ((hostActs_iff_of_latch hl).2 hturn) hseq
  · rcases exec_config (s := s.popTurn) (hs.symm.trans h) with hsame | ⟨htab, hi⟩
    · exact .inl hsame
    · exact .inr ⟨htab, l, i, hl, hd, hi⟩
  · cases hs.symm.trans h

end Sys2Proof.Machine

open Sys2Proof Sys2Proof.Machine Sys2Proof.Claims

/-- Settles O44: by whose move the step is. -/
theorem configurationChangesOnlyByCommand : Obligations.ConfigurationChangesOnlyByCommand := by
  intro s t h
  by_cases hacts : HostActs s
  · rcases step_config_of_hostActs hacts h with hsame | ⟨⟨hvac, hostro⟩, ⟨n, rest, hhost⟩, hvalid⟩
    · exact ⟨hsame.tables.1, hsame.tables.2, .inl hsame⟩
    · exact ⟨hvac, hostro, .inr (.inr (.inr ⟨hacts, n, rest, hhost, hvalid⟩))⟩
  · rcases step_config_of_seq hacts h with
      hsame | ⟨⟨hvac, hostro⟩, l, i, hl, hd, ⟨rfl, hvalid⟩ | ⟨rfl, hvalid⟩⟩
    · exact ⟨hsame.tables.1, hsame.tables.2, .inl hsame⟩
    · exact ⟨hvac, hostro, .inr (.inl ⟨hacts, l, hl, hd, hvalid⟩)⟩
    · exact ⟨hvac, hostro, .inr (.inr (.inl ⟨hacts, l, hl, hd, hvalid⟩))⟩

end

section
/-! SUPPORT. The checks of PROCESS_PLANE one by one, and what a job that ends leaves: the noise state after its last row, and its
gain and offset. -/

namespace Sys2Proof.Machine

open Sys2Proof.Claims

/-! ### The checks in their order (46_engine R316) -/

/-- A job that its plan rejects records the error and changes nothing else (60_exceptions R362). -/
theorem exec_of_reject {s : State} {e : ErrorCode} {info : Word} (h : planJob s = .reject e info) :
    exec .processPlane s = .next (failed (errorCode e) info s) := by
  rw [exec_processPlane, execProcessPlane, h]
  rfl

/-- An empty plane completes at once. -/
theorem exec_of_empty {s : State} (h : planJob s = .empty) : exec .processPlane s = .next (succeed s) := by
  rw [exec_processPlane, execProcessPlane, h]

/-- Without a configuration there is no job (60_exceptions R365). -/
theorem planJob_of_invalid {s : State} (h : s.cfgValid = false) :
    planJob s = .reject .notConstructed (s.commandWord .processPlane) :=
  if_pos h

section

variable {s : State} (hvalid : s.cfgValid = true)
include hvalid

/-- A plane that the configuration does not have is JOB_BAD_PLANE. -/
theorem planJob_of_badPlane (h : s.act.count ≤ (jobOf s.operands).plane) : planJob s = .reject .jobBadPlane 0 :=
  (if_neg (by simp [hvalid])).trans (if_pos h)

variable (hplane : (jobOf s.operands).plane < s.act.count)
include hplane

/-- An ERRDIF job wider than the accumulator is RESOURCE. -/
theorem planJob_of_tooWide (h : (∃ k, s.act.routine = .errdif k) ∧ 8192 < (jobOf s.operands).width) :
    planJob s = .reject .resource 0 := by
  rw [← usesAccumulator_iff] at h
  exact (if_neg (by simp [hvalid])).trans <| (if_neg hplane.not_ge).trans (if_pos h)

variable (hwidth : ¬ ((∃ k, s.act.routine = .errdif k) ∧ 8192 < (jobOf s.operands).width))
include hwidth

/-- A base or a stride that is no multiple of its container size is JOB_ALIGN (20_memory R86). -/
theorem planJob_of_misaligned (h : ¬ JobAligned s (jobOf s.operands)) : planJob s = .reject .jobAlign 0 := by
  rw [← usesAccumulator_iff] at hwidth
  rw [← aligned_iff, Bool.not_eq_true] at h
  exact (if_neg (by simp [hvalid])).trans <| (if_neg hplane.not_ge).trans <| (if_neg hwidth).trans (if_pos h)

/-- Past the checks a plane of width or height 0 is empty. -/
theorem planJob_of_emptyPlane (haligned : JobAligned s (jobOf s.operands))
    (h : (jobOf s.operands).width = 0 ∨ (jobOf s.operands).height = 0) : planJob s = .empty := by
  rw [← usesAccumulator_iff] at hwidth
  rw [← aligned_iff, ← Bool.not_eq_false] at haligned
  exact (if_neg (by simp [hvalid])).trans <| (if_neg hplane.not_ge).trans <| (if_neg hwidth).trans <|
    (if_neg haligned).trans (if_pos h)

end

/-! ### What a job leaves (46_engine R319) -/

/-- A job shows its gain and offset at its finish, if its routine uses them. -/
theorem finishJob_of_usesGain {s : State} (h : usesGain s.act.routine = true) (r : Run) :
    GainSame (showGain r.work.g r.work.o s) (finishJob r s) := by
  unfold finishJob
  rw [h]
  cases drawsNoise s.act.routine <;> exact ⟨rfl, rfl, rfl, rfl⟩

/-- Else it leaves GAIN and OFF. -/
theorem finishJob_of_not_usesGain {s : State} (h : usesGain s.act.routine = false) (r : Run) :
    GainSame s (finishJob r s) := by
  unfold finishJob
  rw [h]
  cases drawsNoise s.act.routine <;> exact ⟨rfl, rfl, rfl, rfl⟩

/-- COPY and SHIFT are the routines that do not use the gain. -/
theorem usesGain_eq_false_iff (r : Routine) : usesGain r = false ↔ r = .copy ∨ r = .shift := by
  cases r <;> simp [usesGain]

/-- Every other routine uses it. -/
theorem usesGain_of_ne {r : Routine} (hcopy : r ≠ .copy) (hshift : r ≠ .shift) : usesGain r = true := by
  rw [← Bool.not_eq_false, usesGain_eq_false_iff]
  exact not_or.2 ⟨hcopy, hshift⟩

/-- The routines that draw noise (41_noise R170). -/
theorem drawsNoise_iff (r : Routine) : drawsNoise r = true ↔ r = .ordered ∨ r = .qrs ∨ ∃ k, r = .errdif k := by
  cases r <;> simp [drawsNoise]

/-- A job keeps the gain and offset of its setup (46_engine R317). -/
theorem runJob_gain {s : State} {j : JobLatch} {r : Run} (h : runJob s j = .ok r) :
    r.work.g = jobGain s.act j ∧ r.work.o = jobOffset s.act j := by
  refine runSteps_induct (P := fun q => q.work.g = jobGain s.act j ∧ q.work.o = jobOffset s.act j) ?_ ⟨rfl, rfl⟩ h
  rintro m - q q' ⟨hg, ho⟩ hstep
  obtain ⟨-, hg', ho', -⟩ := jobStep_constants hstep
  exact ⟨hg'.trans hg, ho'.trans ho⟩

/-- The noise state along a row of an ERRDIF job: a draw a pixel, in whichever direction the row runs. -/
theorem edAlong_noise {s : State} {j : JobLatch} {y : Nat} {p : Accum × Word} (k : Kernel) (n : Nat)
    (hp : p.2 = streamAt s.act j 0 y) : (edAlong s j k y n p).2 = streamAt s.act j n y := by
  induction n with
  | zero => exact hp
  | succ n ih => rw [streamAt_succ_column, ← ih]; rfl

/-- The noise state at the start of a row of an ERRDIF job is that of a job whose rows run left to right. -/
theorem edRowStart_noise (s : State) (j : JobLatch) (k : Kernel) (y : Nat) :
    (edRowStart s j k y).2 = streamAt s.act j 0 y := by
  induction y with
  | zero => rfl
  | succ y ih => rw [streamAt_succ_row, ← edAlong_noise k j.width ih]; rfl

section

variable {s t : State} {j : JobLatch} (hj : JobAccepted s j) (hf : s.busFail = []) (ht : exec .processPlane s = .next t)
include hj hf ht

/-- A job that draws noise leaves in RNG_STATE the seed advanced by a draw a pixel and an `eol` a row (41_noise R170). -/
theorem rngState_of_drawsNoise (hn : drawsNoise s.act.routine = true) : t.inp.rngState = streamAt s.act j 0 j.height := by
  cases hacc : usesAccumulator s.act.routine with
  | true =>
    obtain ⟨k, hk⟩ := (usesAccumulator_iff _).1 hacc
    rw [rngState_of_errdif hj hf hk ht, edRowStart_noise]
  | false =>
    obtain ⟨r, hr, -, he⟩ := exec_of_accepted_noFail hj hf
    cases he.symm.trans ht
    rw [succeed_inp, finishJob_inp, if_pos hn]
    exact (runSteps_rows_workAt hacc hr).noise hn

/-- Any other job leaves RNG_STATE. -/
theorem rngState_of_not_drawsNoise (hn : drawsNoise s.act.routine = false) : t.inp.rngState = s.inp.rngState := by
  obtain ⟨r, -, -, he⟩ := exec_of_accepted_noFail hj hf
  cases he.symm.trans ht
  rw [succeed_inp, finishJob_inp, hn]
  rfl

/-- A job whose routine uses the gain leaves its own in GAIN and OFF. -/
theorem gain_of_usesGain (hg : usesGain s.act.routine = true) :
    GainSame (showGain (jobGain s.act j) (jobOffset s.act j) s) t := by
  obtain ⟨r, hr, -, he⟩ := exec_of_accepted_noFail hj hf
  cases he.symm.trans ht
  obtain ⟨hgain, hoffset⟩ := runJob_gain hr
  rw [← hgain, ← hoffset]
  exact finishJob_of_usesGain hg r

/-- Any other job leaves GAIN and OFF. -/
theorem gain_of_not_usesGain (hg : usesGain s.act.routine = false) : GainSame s t := by
  obtain ⟨r, -, -, he⟩ := exec_of_accepted_noFail hj hf
  cases he.symm.trans ht
  exact finishJob_of_not_usesGain hg r

end

end Sys2Proof.Machine

open Sys2Proof Sys2Proof.Machine Sys2Proof.Claims

/-- Settles O45: by the first check that fails. -/
theorem processPlaneChecksInOrder : Obligations.ProcessPlaneChecksInOrder := by
  rintro s j rfl
  refine ⟨fun hinvalid => exec_of_reject (planJob_of_invalid hinvalid),
    fun hvalid hbad => exec_of_reject (planJob_of_badPlane hvalid hbad), fun hvalid hplane => ⟨fun hwide => ?_, fun hwidth =>
    ⟨fun hmisaligned => ?_, fun haligned hempty => ?_⟩⟩⟩
  · exact exec_of_reject (planJob_of_tooWide hvalid hplane hwide)
  · exact exec_of_reject (planJob_of_misaligned hvalid hplane hwidth hmisaligned)
  · exact exec_of_empty (planJob_of_emptyPlane hvalid hplane hwidth haligned hempty)

/-- Settles O47: the job ends, and its finish writes only what the frame leaves out. -/
theorem acceptedJobsComplete : Obligations.AcceptedJobsComplete := by
  intro s j hj hf
  obtain ⟨r, hr, hrf, he⟩ := exec_of_accepted_noFail hj hf
  have hmem : MemorySameOutside (destPlane s.act j) s (succeed (finishJob r s)) := fun a ha => by
    rw [succeed_mem, finishJob_mem]
    exact runSteps_outside (r := jobSetup s j) rfl (fun _ _ => pixel_of_mem_jobSteps) (width_of_accepted hj) ha hr
  refine ⟨_, he, rfl, ?_, hmem, ?_⟩
  · rw [succeed_irqStatus, finishJob_irqStatus]
    rfl
  · rw [finishJob_frame]
    exact ⟨⟨rfl, rfl, rfl, rfl, rfl⟩, ⟨rfl, rfl, rfl, rfl, rfl, rfl⟩, ⟨rfl, rfl, rfl, rfl, rfl⟩, rfl, rfl, rfl, rfl, hrf, rfl⟩

/-- Settles O48: by whether the routine draws noise and uses the gain. -/
theorem jobLeavesNoiseStateAndGain : Obligations.JobLeavesNoiseStateAndGain := by
  intro s t j hj hf ht
  refine ⟨fun hplain => ?plain, fun hfloat => ?floatOut, fun hnoise => ?noise, fun hcopy hshift => ?gain⟩
  case plain =>
    have hn : drawsNoise s.act.routine = false := by
      rcases hplain with h | h <;> rw [h] <;> rfl
    exact ⟨rngState_of_not_drawsNoise hj hf ht hn, gain_of_not_usesGain hj hf ht ((usesGain_eq_false_iff _).2 hplain)⟩
  case floatOut => exact rngState_of_not_drawsNoise hj hf ht (by rw [hfloat]; rfl)
  case noise => exact rngState_of_drawsNoise hj hf ht ((drawsNoise_iff _).2 hnoise)
  case gain =>
    obtain ⟨hgainLo, hgainHi, hoffLo, hoffHi⟩ := gain_of_usesGain hj hf ht (usesGain_of_ne hcopy hshift)
    rw [hgainLo, hgainHi, hoffLo, hoffHi]
    exact showGain_pairs _ _ s

end

section
/-! SUPPORT. Two jobs that agree on the configuration, the pattern store, the tables, the job parameters and the source samples:
whatever the statements about a job's samples are made of is the same for both. -/

namespace Sys2Proof.Machine

open Sys2Proof.Claims

/-- The two jobs agree on everything that 46_engine R328 names. -/
structure JobsAgree (s s' : State) (j j' : JobLatch) : Prop where
  act : s'.act = s.act
  pattern : s'.pat = s.pat
  table : s'.ostroTab = s.ostroTab
  width : j'.width = j.width
  height : j'.height = j.height
  frame : j'.frame = j.frame
  plane : j'.plane = j.plane
  source : ∀ x < j.width, ∀ y < j.height, sourceSample s' j' x y = sourceSample s j x y

/-- An accepted job with a legal configuration that no access fails, and the state it leaves. -/
structure JobRuns (s : State) (j : JobLatch) (t : State) : Prop where
  accepted : JobAccepted s j
  noFail : s.busFail = []
  memory : Memory.wf s.mem = true
  legal : ConfigLegal s.act
  completes : exec .processPlane s = .next t

section

variable {s s' : State} {j j' : JobLatch} (h : JobsAgree s s' j j')
include h

/-! ### What a pixel is made of -/

/-- The gain is that of the configuration and the plane (46_engine R317). -/
theorem JobsAgree.gain_eq : jobGain s'.act j' = jobGain s.act j := by
  rw [jobGain, jobGain, h.act, h.plane]

/-- So is the offset. -/
theorem JobsAgree.offset_eq : jobOffset s'.act j' = jobOffset s.act j := by
  rw [jobOffset, jobOffset, h.act, h.plane]

/-- The noise state of a pixel is that of its place (41_noise R170). -/
theorem JobsAgree.stream_eq (x y : Nat) : streamAt s'.act j' x y = streamAt s.act j x y := by
  simp only [streamAt, h.act, h.width, h.frame, h.plane]

/-- So is its noise term. -/
theorem JobsAgree.noise_eq (x y : Nat) : noiseTerm s'.act j' x y = noiseTerm s.act j x y := by
  rw [noiseTerm, noiseTerm, h.stream_eq, h.act]

/-- So is its quasirandom counter (43_quasirandom R213). -/
theorem JobsAgree.counter_eq (x y : Nat) : counterAt s'.act j' x y = counterAt s.act j x y := by
  rw [counterAt, counterAt, h.frame, h.plane, h.act]

/-- The pattern term is that of the pattern store. -/
theorem JobsAgree.patval_eq (k x y : Nat) : patval s' k x y = patval s k x y := by
  simp only [patval, h.pattern, h.act]

/-- An ERRDIF pixel has the same sum (44_error_diffusion R243). -/
theorem JobsAgree.edSum_eq (k : Kernel) {x y : Nat} (hx : x < j.width) (hy : y < j.height) (p : Accum × Word) :
    edSum s' j' k y x p = edSum s j k y x p := by
  rw [edSum, edSum, h.source x hx y hy, h.gain_eq, h.offset_eq, h.act]

/-- It leaves the same. -/
theorem JobsAgree.edPixel_eq (k : Kernel) {x y : Nat} (hx : x < j.width) (hy : y < j.height) (p : Accum × Word) :
    edPixel s' j' k y x p = edPixel s j k y x p := by
  simp only [edPixel, h.source x hx y hy, h.edSum_eq k hx hy, h.act, h.table]

/-- So do the pixels of a row. -/
theorem JobsAgree.edAlong_eq (k : Kernel) {n y : Nat} (hn : n ≤ j.width) (hy : y < j.height) (p : Accum × Word) :
    edAlong s' j' k y n p = edAlong s j k y n p := by
  induction n with
  | zero => rfl
  | succ n ih => simp only [edAlong, h.width, ih (by omega), h.edPixel_eq k (edColumn_lt y (show n < j.width by omega)) hy]

/-- A row starts from the same. -/
theorem JobsAgree.edRowStart_eq (k : Kernel) {y : Nat} (hy : y ≤ j.height) : edRowStart s' j' k y = edRowStart s j k y := by
  induction y with
  | zero => simp only [edRowStart, h.frame, h.plane, h.act]
  | succ y ih => simp only [edRowStart, h.width, ih (by omega), h.edAlong_eq k le_rfl (show y < j.height by omega)]

end

/-! ### The samples, by routine (46_engine R322 to R327) -/

/-- The columns of a row are each some pixel's: `edColumn` is its own inverse. -/
theorem edColumn_edColumn {w x : Nat} (y : Nat) (hx : x < w) : edColumn w y (edColumn w y x) = x := by
  unfold edColumn
  split <;> omega

/-- What job `j` writes to its destination sample (x, y). -/
def jobSample (s : State) (j : JobLatch) (x y : Nat) : Int :=
  match s.act.routine with
  | .copy => sourceSample s j x y
  | .shift => shiftValue s.act.src.bits s.act.dst.bits (intSample s.act.src (sourceSample s j x y))
  | .floatOut =>
    roundToFloat ((intSample s.act.src (sourceSample s j x y) : Int) * jobGain s.act j + jobOffset s.act j)
  | .ordered =>
    (quantize (workOf s.act.src (sourceSample s j x y) (jobGain s.act j) (jobOffset s.act j) +
      patval s (if s.act.dyn = true then j.frame.toNat % 4 else 0) x y * s.act.ampo + noiseTerm s.act j x y)
      s.act.dst.bits).1
  | .qrs =>
    (quantize (workOf s.act.src (sourceSample s j x y) (jobGain s.act j) (jobOffset s.act j) +
      (if s.act.tpdfOut = true then 2 else 1) * qgValue (counterAt s.act j x y) * s.act.ampo + noiseTerm s.act j x y)
      s.act.dst.bits).1
  | .errdif k =>
    (quantize (edSum s j k y x (edAlong s j k y (edColumn j.width y x) (edRowStart s j k y))) s.act.dst.bits).1

/-- A job that no access fails leaves these values in the samples that no later row writes. -/
theorem JobRuns.destSample_eq {s t : State} {j : JobLatch} (h : JobRuns s j t) {x y : Nat} (hx : x < j.width)
    (hy : y < j.height) (hlast : LastWritten (destPlane s.act j) x y) :
    (destSample s t j x y : Int) = jobSample s j x y := by
  obtain ⟨hj, hf, hm, hconfig, ht⟩ := h
  unfold jobSample
  cases hr : s.act.routine with
  | copy => exact congrArg Nat.cast (copyJobCopiesContainers s t j hj hf hm hconfig hr ht x hx y hy hlast)
  | shift => exact congrArg Nat.cast (shiftJobShiftsSamples s t j hj hf hm hconfig hr ht x hx y hy hlast)
  | floatOut => exact congrArg Nat.cast (floatOutJobRoundsSamples s t j hj hf hm hconfig hr ht x hx y hy hlast)
  | ordered => exact orderedJobDithersSamples s t j hj hf hm hconfig hr ht x hx y hy hlast
  | qrs => exact quasirandomJobDithersSamples s t j hj hf hm hconfig hr ht x hx y hy hlast
  | errdif k =>
    obtain ⟨-, hdst, -⟩ := hconfig
    have hsample := destSample_of_errdif hj hf hr ht hm hdst (edColumn_lt y hx) hy
    rw [edColumn_edColumn y hx] at hsample
    exact hsample hlast

/-- The values are the same for both jobs. -/
theorem JobsAgree.sample_eq {s s' : State} {j j' : JobLatch} (h : JobsAgree s s' j j') {x y : Nat} (hx : x < j.width)
    (hy : y < j.height) : jobSample s' j' x y = jobSample s j x y := by
  have hroutine : s'.act.routine = s.act.routine := by rw [h.act]
  unfold jobSample
  rw [hroutine]
  cases s.act.routine with
  | copy => exact congrArg Nat.cast (h.source x hx y hy)
  | shift => dsimp only; rw [h.source x hx y hy, h.act]
  | floatOut => dsimp only; rw [h.source x hx y hy, h.gain_eq, h.offset_eq, h.act]
  | ordered => dsimp only; rw [h.source x hx y hy, h.gain_eq, h.offset_eq, h.patval_eq, h.noise_eq, h.frame, h.act]
  | qrs => dsimp only; rw [h.source x hx y hy, h.gain_eq, h.offset_eq, h.counter_eq, h.noise_eq, h.act]
  | errdif k =>
    dsimp only
    rw [h.edRowStart_eq k hy.le, h.width, h.edAlong_eq k (edColumn_lt y hx).le hy, h.edSum_eq k hx hy, h.act]

/-! ### What both jobs leave (46_engine R328) -/

section

variable {s s' t t' : State} {j j' : JobLatch} (h : JobsAgree s s' j j') (hrun : JobRuns s j t) (hrun' : JobRuns s' j' t')
include h hrun hrun'

/-- Both jobs leave the same destination samples. -/
theorem JobsAgree.destSample_eq {x y : Nat} (hx : x < j.width) (hy : y < j.height)
    (hlast : LastWritten (destPlane s.act j) x y) (hlast' : LastWritten (destPlane s.act j') x y) :
    destSample s' t' j' x y = destSample s t j x y := by
  rw [← h.act] at hlast'
  zify
  rw [hrun.destSample_eq hx hy hlast, hrun'.destSample_eq (h.width.symm ▸ hx) (h.height.symm ▸ hy) hlast', h.sample_eq hx hy]

/-- Both jobs leave the same noise state. -/
theorem JobsAgree.rngState_eq (hn : drawsNoise s.act.routine = true) : t'.inp.rngState = t.inp.rngState := by
  have hn' : drawsNoise s'.act.routine = true := by rw [h.act, hn]
  rw [rngState_of_drawsNoise hrun.accepted hrun.noFail hrun.completes hn,
    rngState_of_drawsNoise hrun'.accepted hrun'.noFail hrun'.completes hn', h.stream_eq, h.height]

/-- Both jobs show the same gain and offset. -/
theorem JobsAgree.gainSame (hg : usesGain s.act.routine = true) : GainSame t t' := by
  have hg' : usesGain s'.act.routine = true := by rw [h.act, hg]
  obtain ⟨hgainLo, hgainHi, hoffLo, hoffHi⟩ := gain_of_usesGain hrun.accepted hrun.noFail hrun.completes hg
  have hshown' := gain_of_usesGain hrun'.accepted hrun'.noFail hrun'.completes hg'
  rw [h.gain_eq, h.offset_eq] at hshown'
  obtain ⟨hgainLo', hgainHi', hoffLo', hoffHi'⟩ := hshown'
  exact ⟨hgainLo'.trans hgainLo.symm, hgainHi'.trans hgainHi.symm, hoffLo'.trans hoffLo.symm, hoffHi'.trans hoffHi.symm⟩

end

end Sys2Proof.Machine

open Sys2Proof Sys2Proof.Machine Sys2Proof.Claims

/-- Settles O56: what a job leaves is made of what the two jobs agree on. -/
theorem jobsAreDeterministic : Obligations.JobsAreDeterministic := by
  intro s s' j j' hj hj' hf hf' hm hm' hconfig hact hpat htab hwidth hheight hframe hplane hsource
  have h : JobsAgree s s' j j' := ⟨hact, hpat, htab, hwidth, hheight, hframe, hplane, hsource⟩
  obtain ⟨r, -, -, ht⟩ := exec_of_accepted_noFail hj hf
  obtain ⟨r', -, -, ht'⟩ := exec_of_accepted_noFail hj' hf'
  have hrun : JobRuns s j _ := ⟨hj, hf, hm, hconfig, ht⟩
  have hrun' : JobRuns s' j' _ := ⟨hj', hf', hm', hact ▸ hconfig, ht'⟩
  refine ⟨_, _, ht, ht', fun x hx y hy hlast hlast' => h.destSample_eq hrun hrun' hx hy hlast hlast',
    fun hnoise => h.rngState_eq hrun hrun' ((drawsNoise_iff _).2 hnoise), fun hcopy hshift => ?_⟩
  exact h.gainSame hrun hrun' (usesGain_of_ne hcopy hshift)

end

section
/-! SUPPORT. The reset input while a job runs: the steps done and the steps left of a job, and what plane memory holds after
the steps done. -/

namespace Sys2Proof.Machine

open Sys2Proof.Claims

/-! ### The place of a pixel among a job's steps (46_engine R320, R321) -/

/-- A row has its start, a step for each column and its end. -/
theorem rowSteps_length (r : Routine) (w y : Nat) : (rowSteps r w y).length = w + 2 := by
  simp [rowSteps, columnOrder_length]

/-- After its start a row comes to its columns in their order. -/
theorem rowSteps_getElem? (r : Routine) {w n : Nat} (y : Nat) (h : n < w) :
    (rowSteps r w y)[n + 1]? = (columnOrder r w y)[n]?.map fun x => .pixel x y := by
  rw [rowSteps, List.getElem?_cons_succ, List.getElem?_append_left (by simpa [columnOrder_length] using h),
    List.getElem?_map]

/-- The place of column x in row y, the first being 0: odd rows of ERRDIF run right to left (46_engine R321). -/
def placeInRow (r : Routine) (w x y : Nat) : Nat := if usesAccumulator r = true ∧ y % 2 = 1 then w - 1 - x else x

/-- The column at that place is x. -/
theorem columnOrder_placeInRow (r : Routine) {w x : Nat} (y : Nat) (h : x < w) :
    (columnOrder r w y)[placeInRow r w x y]? = some x := by
  rw [columnOrder_getElem? r y (by unfold placeInRow; split <;> omega)]
  unfold placeInRow
  split <;> simp only [Option.some.injEq]
  omega

/-- The index of pixel (x, y) among the steps of a job: the rows above, the row's start, and its place in the row. -/
def pixelIndex (r : Routine) (w x y : Nat) : Nat := y * (w + 2) + 1 + placeInRow r w x y

/-- The step at that index is the pixel. -/
theorem jobSteps_getElem?_pixelIndex (r : Routine) {w h x y : Nat} (hx : x < w) (hy : y < h) :
    (jobSteps r w h)[pixelIndex r w x y]? = some (.pixel x y) := by
  have hplace : placeInRow r w x y < w := by unfold placeInRow; split <;> omega
  have hindex : pixelIndex r w x y = (w + 2) * y + (placeInRow r w x y + 1) := by rw [pixelIndex]; ring
  have hrows : (w + 2) * (y + 1) ≤ (w + 2) * h := Nat.mul_le_mul_left _ hy
  have hlt : pixelIndex r w x y < (w + 2) * h := by rw [hindex]; rw [Nat.mul_succ] at hrows; omega
  rw [jobSteps, getElem?_flatMap_range (rowSteps_length r w) hlt, hindex, Nat.mul_add_div (by omega),
    Nat.div_eq_of_lt (by omega), Nat.mul_add_mod, Nat.mod_eq_of_lt (by omega), Nat.add_zero, rowSteps_getElem? r y hplace,
    columnOrder_placeInRow r y hx]
  rfl

/-! ### The steps done and the steps left (70_reset R390; log 20) -/

/-- The pixels of a list of steps are its pixel steps. -/
theorem mem_pixelsOf_of_mem {steps : List JobStep} {x y : Nat} (h : .pixel x y ∈ steps) : (x, y) ∈ pixelsOf steps :=
  List.mem_filterMap.2 ⟨_, h, rfl⟩

/-- No pixel is among both the steps done and the steps left. -/
theorem pixel_not_mem_drop_of_mem_take {r : Routine} {w h k x y : Nat} (hdone : .pixel x y ∈ (jobSteps r w h).take k) :
    .pixel x y ∉ (jobSteps r w h).drop k := by
  intro hleft
  have hnodup := pixelsOf_jobSteps_nodup r w h
  rw [← List.take_append_drop k (jobSteps r w h), pixelsOf, List.filterMap_append] at hnodup
  obtain ⟨-, -, hdisjoint⟩ := List.nodup_append'.1 hnodup
  exact hdisjoint (mem_pixelsOf_of_mem hdone) (mem_pixelsOf_of_mem hleft)

/-- A pixel is done when its index is below the number of steps done. -/
theorem pixel_mem_take {r : Routine} {w h k x y : Nat} (hx : x < w) (hy : y < h) (hk : pixelIndex r w x y < k) :
    .pixel x y ∈ (jobSteps r w h).take k := by
  refine List.mem_of_getElem? (i := pixelIndex r w x y) ?_
  rw [List.getElem?_take_of_lt hk, jobSteps_getElem?_pixelIndex r hx hy]

/-- Else it is left. -/
theorem pixel_mem_drop {r : Routine} {w h k x y : Nat} (hx : x < w) (hy : y < h) (hk : k ≤ pixelIndex r w x y) :
    .pixel x y ∈ (jobSteps r w h).drop k := by
  refine List.mem_of_getElem? (i := pixelIndex r w x y - k) ?_
  rw [List.getElem?_drop, Nat.add_sub_cancel' hk, jobSteps_getElem?_pixelIndex r hx hy]

/-! ### Memory after the steps done (70_reset R390; log 20) -/

/-- A failing access leaves the memory that steps before it made. -/
theorem runSteps_error_mem {s : State} {steps : List JobStep} {r : Run} {b : BusFailure}
    (h : runSteps s steps r = .error b) : ∃ l ⊆ steps, ∃ q, runSteps s l r = .ok q ∧ b.run.mem = q.mem := by
  induction steps generalizing r with
  | nil => cases h
  | cons m t ih =>
    rw [runSteps] at h
    split at h
    · next a ha =>
      obtain ⟨l, hl, q, hq, hb⟩ := ih h
      exact ⟨m :: l, List.cons_subset_cons m hl, q, by rw [runSteps, ha]; exact hq, hb⟩
    · next e he =>
      cases h
      exact ⟨[], List.nil_subset _, r, rfl, jobStep_error_mem he⟩

/-- The first steps of a job leave the bytes outside its destination. -/
theorem partialRun_outside {s : State} {j : JobLatch} (done : Nat) (hw : j.width < 65536) {a : Word}
    (ha : (destPlane s.act j).holds a = false) : memByte (partialRun s j done).mem a = memByte s.mem a := by
  have hin : ∀ x y, .pixel x y ∈ (jobSteps s.act.routine j.width j.height).take done → x < j.width ∧ y < j.height :=
    fun _ _ hp => pixel_of_mem_jobSteps (List.mem_of_mem_take hp)
  unfold partialRun
  split
  · next r h => exact runSteps_outside (r := jobSetup s j) rfl hin hw ha h
  · next b h =>
    obtain ⟨l, hl, q, hq, hb⟩ := runSteps_error_mem h
    rw [hb]
    exact runSteps_outside (r := jobSetup s j) rfl (fun x y hp => hin x y (hl hp)) hw ha hq

/-- A job that ends goes on from the run of its first steps to its end. -/
theorem partialRun_of_runJob {s : State} {j : JobLatch} {u : Run} (h : runJob s j = .ok u) (done : Nat) :
    runSteps s ((jobSteps s.act.routine j.width j.height).take done) (jobSetup s j) = .ok (partialRun s j done) ∧
      runSteps s ((jobSteps s.act.routine j.width j.height).drop done) (partialRun s j done) = .ok u := by
  rw [runJob, ← List.take_append_drop done (jobSteps s.act.routine j.width j.height)] at h
  obtain ⟨q, hdone, hleft⟩ := runSteps_append_ok h
  rw [partialRun, hdone]
  exact ⟨rfl, hleft⟩

/-- Steps of a job do not change which job it is. -/
theorem runSteps_job {s : State} {steps : List JobStep} {r r' : Run} (h : runSteps s steps r = .ok r') :
    r'.work.j = r.work.j :=
  runSteps_induct (P := fun q => q.work.j = r.work.j) (fun _ _ _ _ hq hs => (jobStep_constants hs).1.trans hq) rfl h

/-- Where destination samples share no byte, some of a job's steps leave each sample whose pixel is none of them. -/
theorem runSteps_sample_kept_of_not_mem {s : State} {j : JobLatch} {steps : List JobStep} {r r' : Run}
    (hj : r.work.j = j) (hap : SamplesApart (destPlane s.act j))
    (hin : steps ⊆ jobSteps s.act.routine j.width j.height) {x y : Nat} (hx : x < j.width) (hy : y < j.height)
    (hnot : .pixel x y ∉ steps) (h : runSteps s steps r = .ok r') :
    memRead r'.mem ((destPlane s.act j).addr x y) (containerSize s.act.dst) =
      memRead r.mem ((destPlane s.act j).addr x y) (containerSize s.act.dst) := by
  refine runSteps_sample_kept hj (fun x' y' hm => ?_) h
  obtain ⟨hx', hy'⟩ := pixel_of_mem_jobSteps (hin hm)
  refine hap x y x' y' hx hy hx' hy' fun he => hnot ?_
  obtain ⟨rfl, rfl⟩ := Prod.mk.inj he
  exact hm

/-- Where destination samples share no byte, the first steps of a job that ends leave the job's value in each sample whose
pixel is among them, and every other as it was. -/
theorem partialRun_sample {s : State} {j : JobLatch} {u : Run} (hap : SamplesApart (destPlane s.act j))
    (hu : runJob s j = .ok u) (done : Nat) {x y : Nat} (hx : x < j.width) (hy : y < j.height) :
    memRead (partialRun s j done).mem ((destPlane s.act j).addr x y) (containerSize s.act.dst) =
      memRead (if pixelIndex s.act.routine j.width x y < done then u.mem else s.mem)
        ((destPlane s.act j).addr x y) (containerSize s.act.dst) := by
  obtain ⟨hdone, hleft⟩ := partialRun_of_runJob hu done
  split
  · next hlt =>
    have hnot := pixel_not_mem_drop_of_mem_take (pixel_mem_take hx hy hlt)
    exact (runSteps_sample_kept_of_not_mem (runSteps_job hdone) hap (List.drop_subset _ _) hx hy hnot hleft).symm
  · next hge =>
    have hnot := fun hm => pixel_not_mem_drop_of_mem_take hm (pixel_mem_drop hx hy (Nat.le_of_not_lt hge))
    exact runSteps_sample_kept_of_not_mem (r := jobSetup s j) rfl hap (List.take_subset _ _) hx hy hnot hdone

/-! ### What the reset input does (70_reset R390) -/

/-- The state that the reset input leaves of a running job: the reset of the engine, with the memory that the first `done`
steps left. -/
theorem hardReset_running {s : State} {j : JobLatch} (h : runningPlan s = some (.run j)) (done : Nat) :
    hardReset done s = .next (resetEngine { s with
      mem := (partialRun s j done).mem, busFail := (partialRun s j done).busFail }) := by
  rw [hardReset, h]

/-- A running job that the model refuses is refused here too. -/
theorem hardReset_refused {s : State} {q : Refusal} (h : runningPlan s = some (.refuse q)) (done : Nat) :
    hardReset done s = .refused q := by
  rw [hardReset, h]

/-- With no running job the reset input is the reset of the engine. -/
theorem hardReset_idle {s : State} (h : NoRunningJob s) (done : Nat) : hardReset done s = .next (resetEngine s) := by
  rcases hardReset_cases done s with ⟨j, hj, -⟩ | ⟨q, hq, -⟩ | he
  · exact absurd hj (h.1 j)
  · exact absurd hq (h.2 q)
  · exact he

/-- The reset input refuses no job that is accepted. -/
theorem hardReset_of_accepted {s : State} {j : JobLatch} (h : JobAccepted s j) (done : Nat) :
    ∃ t, hardReset done s = .next t := by
  rcases hardReset_cases done s with ⟨_, -, he⟩ | ⟨q, hq, -⟩ | he
  · exact ⟨_, he⟩
  · obtain ⟨-, -, -, hp⟩ := runningPlan_eq_some hq
    cases (planJob_of_accepted h).symm.trans hp
  · exact ⟨_, he⟩

/-- Where the reset input goes on it leaves the reset state, and memory outside the destination of the job in the
registers. -/
theorem hardReset_frame {s t : State} {done : Nat} (h : hardReset done s = .next t) :
    ReadsAsReset t ∧ t.inp = InputRegs.reset ∧ OutsideSame s t ∧
      MemorySameOutside (destPlane s.act (jobOf s.operands)) s t := by
  rcases hardReset_cases done s with ⟨j, hj, he⟩ | ⟨q, -, he⟩ | he <;> cases he.symm.trans h
  · obtain ⟨-, -, -, hp⟩ := runningPlan_eq_some hj
    obtain ⟨hw, -⟩ := planJob_run_bounds hp
    obtain ⟨rfl, -⟩ := (planJob_run_iff s j).1 hp
    exact ⟨resetEngine_readsAsReset _, rfl, ⟨rfl, rfl, rfl, rfl, rfl, rfl⟩, fun _ ha => partialRun_outside done hw ha⟩
  · exact ⟨resetEngine_readsAsReset _, rfl, ⟨rfl, rfl, rfl, rfl, rfl, rfl⟩, fun _ _ => rfl⟩

end Sys2Proof.Machine

open Sys2Proof Sys2Proof.Machine Sys2Proof.Claims

/-- Settles O16: by what the latched command will do; a running job is cut into the steps done and the steps left, and a
pixel is among the one or the other. -/
theorem resetInputLeavesTheResetState : Obligations.ResetInputLeavesTheResetState := by
  rintro s done j rfl
  refine ⟨fun t ht => hardReset_frame ht, fun hidle => ?idle, fun l hl => ⟨fun hj => hardReset_of_accepted hj done,
    fun hd => ⟨fun q hq => ?refused, fun hj hf _ hap => ?samples⟩⟩⟩
  case idle =>
    exact ⟨_, hardReset_idle (noRunningJob_of_not_passes hidle) done, fun _ => rfl⟩
  case refused =>
    refine hardReset_refused ?_ done
    rw [runningPlan_of_latch hl hd, (execProcessPlane_refused_iff s q).1 hq]
  case samples =>
    have hplan : runningPlan s = some (.run (jobOf s.operands)) := by
      rw [runningPlan_of_latch hl hd, planJob_of_accepted hj]
    obtain ⟨u, hu, -, he⟩ := exec_of_accepted_noFail hj hf
    refine ⟨_, _, hardReset_running hplan done, he, ?_⟩
    rintro x hx y hy n rfl
    refine (partialRun_sample hap hu done hx hy).trans ?_
    rw [destSample, destSample, succeed_mem, finishJob_mem, ← apply_ite (memRead · _ _)]
    rfl

end
